-- ==== Sys2Proof/Word.lean ====
section
/-! DEFINITION. The word types of EMRSA and the selection of fields of a word: 00_scope.md R14 and R17, 10_state.md R57. -/

namespace Sys2Proof

/-- A bus word and every addressable register: 32 bits (R14, R32). -/
abbrev Word := BitVec 32

/-- A DMEM location (R80). -/
abbrev Byte := BitVec 8

/-- A big-integer register N, E, D or NONCE: 8 * MAX_BYTES = 4096 bits (R9, R57). -/
abbrev BigReg := BitVec 4096

/-- A host bus address PADDR[16:0] (R14, R81). -/
abbrev BusAddr := BitVec 17

/-- The byte strobes PSTRB[3:0] (R14). -/
abbrev Strobe := BitVec 4

end Sys2Proof
end

