-- ==== Sys2Proof/Config.lean ====
section
/-! DEFINITION. What an implementation of EMRSA fixes (00_scope.md R9 to R13, 10_state.md R36, R37, R56) and the one free
value the spec leaves open (20_memory.md R105). -/

namespace Sys2Proof.Config

/-- MAX_BYTES, the largest block size in bytes (R9). -/
def maxBytes : Nat := 512

/-- PAD_LEN, the padding reservation of an ECB block (R11). -/
def padLen : Nat := 2

/-- log2 of DMEM_SIZE, as PARAMS shows it (R56). -/
def dmemLog2 : Nat := 16

/-- DMEM_SIZE in bytes (R12, R80). -/
def dmemSize : Nat := 65536

/-- The largest value of the CTR_W = 32 bit counter register (R13, R238). -/
def ctrMax : Nat := 4294967295

/-- The constant of the ID register, "RSAE" (R36). -/
def idValue : Word := 0x52534145

/-- The constant of the VERSION register, 1.0 (R37). -/
def versionValue : Word := 0x00010000

/-- The constant of the PARAMS register, from the three parameters it shows (R56). -/
def paramsValue : Word := BitVec.ofNat 32 (maxBytes + dmemLog2 * 2 ^ 16 + padLen * 2 ^ 24)

/-- FREE VALUE (log entry 1). What an unwritten DMEM byte reads as: some value nothing constrains (R105, R302, R304).
The arguments are the number of the hardware reset the byte stands after, how many aborted output ranges have covered it
since then, and its address. -/
opaque dmemDraw (hwReset aborts addr : Nat) : Byte

end Sys2Proof.Config
end

