-- ==== Sys2Proof/Syntax.lean ====
section
/-! DEFINITION. The command set of EMRSA: one constructor for each row of spec/opcode_table.json (30_encoding.md R122, R131).
No command word carries an operand (R124), so no constructor has an argument. -/

namespace Sys2Proof

/-- The eleven legal commands (R122, R126). -/
inductive Instr where
  /-- NOP, the completion handshake (40_key_engine.md R152). -/
  | nop
  /-- SET_KEYS, install a keypair (40_key_engine.md R153). -/
  | setKeys
  /-- SET_NONCE, load the CTR nonce (43_ctr.md R230). -/
  | setNonce
  /-- MODEXP_PUB, x^E mod N (41_modexp_arith.md R172). -/
  | modexpPub
  /-- MODEXP_PRV, y^D mod N (41_modexp_arith.md R173). -/
  | modexpPrv
  /-- ECB_ENC, ECB encryption (42_ecb.md R204). -/
  | ecbEnc
  /-- ECB_DEC, ECB decryption (42_ecb.md R206). -/
  | ecbDec
  /-- CTR with CONT = 0, a new stream (43_ctr.md R232). -/
  | ctr
  /-- CTR with CONT = 1, the open stream continued (43_ctr.md R232, R236). -/
  | ctrCont
  /-- MONTMUL, the Montgomery product (41_modexp_arith.md R177). -/
  | montmul
  /-- BARRETT, reduction of a double-width value (41_modexp_arith.md R178). -/
  | barrett
  deriving DecidableEq, Repr

end Sys2Proof
end

