-- ==== Sys2Proof/WellFormed.lean ====
section
/-! DEFINITION. The fields of a command word and when a word is legal (30_encoding.md R120, R125). A command has no operand, so
every term of Instr is well formed; what can be ill formed is the word. -/

namespace Sys2Proof

/-- OP, bits [3:0] of a command word (R120). -/
def opField (w : Word) : BitVec 4 := w.extractLsb' 0 4

/-- CONT, bit [4] of a command word (R120). -/
def contField (w : Word) : Bool := w.getLsbD 4

/-- RSVD, bits [31:5] of a command word (R120). -/
def rsvdField (w : Word) : BitVec 27 := w.extractLsb' 5 27

/-- No reserved bit is set (R125, second case). -/
def rsvdClear (w : Word) : Bool := rsvdField w == 0

/-- CONT is set for OP = 0x7 (CTR) only (R125, third case). -/
def contAllowed (w : Word) : Bool := !contField w || opField w == 7

/-- OP is one of 0x0 to 0x9 (R125, first case). -/
def opAssigned (w : Word) : Bool := (opField w).toNat ≤ 9

/-- A word is legal when none of the three cases of R125 holds of it. -/
def legalWord (w : Word) : Bool := rsvdClear w && contAllowed w && opAssigned w

/-- Every command is well formed: it has no operand that could be out of range (R124). -/
def Instr.wellFormed (_ : Instr) : Bool := true

end Sys2Proof
end

