-- ==== Sys2Proof/Decode.lean ====
section
/-! DEFINITION. The decoder, total on all 2^32 words (30_encoding.md R127), the encoder written from the same table (R122), and
the mnemonics and disassembly of R131. -/

namespace Sys2Proof

/-- Why a word is illegal: the cases of R125. All of them end in ILLEGAL_CMD. -/
inductive IllegalWord where
  /-- RSVD = CMD[31:5] is not 0. -/
  | reservedBits
  /-- CONT = 1 and OP is not 0x7. -/
  | contWithoutCtr
  /-- OP is one of 0xA to 0xF. -/
  | reservedOp
  deriving DecidableEq, Repr

/-- What the decoder answers: a command, or ILLEGAL with its reason (R127). -/
inductive Decoded where
  | command (i : Instr)
  | illegal (why : IllegalWord)
  deriving DecidableEq, Repr

/-- The command an OP value names, with CONT choosing between the two words of CTR (R122). -/
def commandOf (op : BitVec 4) (cont : Bool) : Decoded :=
  match op.toNat with
  | 0 => .command .nop
  | 1 => .command .setKeys
  | 2 => .command .setNonce
  | 3 => .command .modexpPub
  | 4 => .command .modexpPrv
  | 5 => .command .ecbEnc
  | 6 => .command .ecbDec
  | 7 => .command (if cont then .ctrCont else .ctr)
  | 8 => .command .montmul
  | 9 => .command .barrett
  | _ => .illegal .reservedOp

/-- Decode(w) of R127, in its order of tests. -/
def decode (w : Word) : Decoded :=
  if !rsvdClear w then .illegal .reservedBits
  else if !contAllowed w then .illegal .contWithoutCtr
  else commandOf (opField w) (contField w)

/-- The command a word decodes to, or none where it is illegal. -/
def Decoded.instr? : Decoded → Option Instr
  | .command i => some i
  | .illegal _ => none

/-- The encoded words of R122. -/
def encode : Instr → Word
  | .nop => 0x00000000
  | .setKeys => 0x00000001
  | .setNonce => 0x00000002
  | .modexpPub => 0x00000003
  | .modexpPrv => 0x00000004
  | .ecbEnc => 0x00000005
  | .ecbDec => 0x00000006
  | .ctr => 0x00000007
  | .ctrCont => 0x00000017
  | .montmul => 0x00000008
  | .barrett => 0x00000009

/-- The instruction read from the `nbits` low bits of `w`, bit 0 being PWDATA[0] of the one word (R120, R128). -/
def decodeTableWord (nbits w : Nat) : Option Instr :=
  (decode (BitVec.ofNat 32 (w % 2 ^ nbits))).instr?

/-- The mnemonics of R131. -/
def mnemonic : Instr → String
  | .nop => "NOP"
  | .setKeys => "SET_KEYS"
  | .setNonce => "SET_NONCE"
  | .modexpPub => "MODEXP_PUB"
  | .modexpPrv => "MODEXP_PRV"
  | .ecbEnc => "ECB_ENC"
  | .ecbDec => "ECB_DEC"
  | .ctr => "CTR"
  | .ctrCont => "CTR.CONT"
  | .montmul => "MONTMUL"
  | .barrett => "BARRETT"

/-- One upper-case hexadecimal digit. -/
def hexDigit (d : Nat) : Char :=
  if d < 10 then Char.ofNat (48 + d) else Char.ofNat (55 + d)

/-- The `k` low hexadecimal digits of `v`, most significant first. -/
def hexDigits (v : Nat) : Nat → List Char
  | 0 => []
  | k + 1 => hexDigits (v / 16) k ++ [hexDigit (v % 16)]

/-- Disassembly: the mnemonic of a legal word, `.word 0x<8 hex digits>` of an illegal one (R131). -/
def disassemble (w : Word) : String :=
  match decode w with
  | .command i => mnemonic i
  | .illegal _ => ".word 0x" ++ String.ofList (hexDigits w.toNat 8)

end Sys2Proof
end

