-- ==== Sys2Proof/Machine/State.lean ====
section
/-! DEFINITION. The whole state of EMRSA as plain data (10_state.md R66 with R32, R57, R62), its value after hardware reset
(70_reset_and_hazards.md R301, R302), and the input the outside world gives it (R320). -/

namespace Sys2Proof.Machine

/-- EMRSA never stops with a fault: every command error is an error completion (60_exceptions.md R260, R265), every bus
access has a response (20_memory.md R89), and no behaviour of the spec is stuck (93_implementation_defined.md, after its
table). So this type has no constructor, which is safe: nothing is cut short. -/
inductive Fault where
  deriving DecidableEq, Repr

/-- The reasons a step may be refused. -/
inductive Refusal where
  /-- An instruction whose meaning is not written yet, by its mnemonic. Raised by an arm of `exec` only; no arm raises it
  now. Safe: a refusal proves nothing about the hardware. -/
  | notModelled (mnemonic : String)
  deriving DecidableEq, Repr

/-- One completed bus transfer of the host port (70_reset_and_hazards.md R319): PWRITE, PADDR, PWDATA, PSTRB. A read carries
its strobes too, which a read ignores (20_memory.md R87). -/
structure Transfer where
  write : Bool
  addr : BusAddr
  data : Word
  strobe : Strobe
  deriving DecidableEq, Repr

/-- What the port answers: PRDATA and PSLVERR of a read, PSLVERR of a write (20_memory.md R89; `slverr = true` is SLVERR). -/
inductive Reply where
  | read (data : Word) (slverr : Bool)
  | write (slverr : Bool)
  deriving DecidableEq, Repr

/-- Who moves next (70_reset_and_hazards.md R320): the outside world's input to the machine. -/
inductive Turn where
  /-- HOST: one bus transfer. -/
  | host (t : Transfer)
  /-- ENGINE: complete the pending command, if there is one. -/
  | engine
  /-- A host transfer and the engine's completion in the same bus cycle (10_state.md R54, 60_exceptions.md R274). -/
  | hostAndEngine (t : Transfer)
  /-- rst_n low at a clock edge: the hardware reset (70_reset_and_hazards.md R300). -/
  | hardReset
  deriving DecidableEq, Repr

/-- DMEM as the written bytes by address: addresses strictly rising, an address that is not listed is "unwritten"
(20_memory.md R105). -/
abbrev Memory := List Host.Cell

/-- The whole machine. The last three fields are the model's own (log entries 1, 2 and 4). -/
structure State where
  /-- SRC (R48). -/
  src : Word
  /-- DST (R49). -/
  dst : Word
  /-- LEN (R50). -/
  len : Word
  /-- LCMD, the last latched command word, read through CMD (R39, R62). -/
  lcmd : Word
  /-- LSRC, the latched SRC (R62). -/
  lsrc : Word
  /-- LDST, the latched DST (R62). -/
  ldst : Word
  /-- LLEN, the latched LEN (R62). -/
  llen : Word
  /-- STATUS.BUSY (R41). -/
  busy : Bool
  /-- STATUS.DONE (R42). -/
  done : Bool
  /-- STATUS.ERR (R43). -/
  err : Bool
  /-- STATUS.PADFMT (R46). -/
  padfmt : Bool
  /-- ERRCODE.CODE (R47). -/
  errcode : BitVec 4
  /-- OUTLEN (R51). -/
  outlen : Word
  /-- INT_STATUS: DONE_EV 0, ERR_EV 1, OVERRUN_EV 2, ACCESS_EV 3 (R54). -/
  intStatus : BitVec 4
  /-- INT_ENABLE: DONE_IE 0, ERR_IE 1, OVERRUN_IE 2, ACCESS_IE 3 (R55). -/
  intEnable : BitVec 4
  /-- N, the modulus (R57, R58). -/
  keyN : BigReg
  /-- E, the public exponent (R57, R59). -/
  keyE : BigReg
  /-- D, the private exponent (R57, R60). -/
  keyD : BigReg
  /-- NB, the block size in bytes, read through BLKLEN (R53, R57). -/
  nb : BitVec 10
  /-- KEY_VALID, read through STATUS (R44, R57). -/
  keyValid : Bool
  /-- NONCE (R57, R61). -/
  nonce : BigReg
  /-- CTR_COUNT (R52, R57). -/
  ctrCount : Word
  /-- CTR_OPEN, read through STATUS (R45, R57). -/
  ctrOpen : Bool
  /-- DMEM (R80, R105). -/
  mem : Memory
  /-- PRDATA and PSLVERR as the last completed transfer left them; none before the first (R319). -/
  reply : Option Reply
  /-- The model's own: how many hardware resets have happened, which selects the draws of unwritten bytes. -/
  hwResets : Nat
  /-- The model's own: start and length of every output range a soft reset abandoned since the last hardware reset (R304). -/
  aborted : List (Nat × Nat)
  /-- The model's own: the turns still to come, the input of host and scheduler (R320). -/
  turns : List Turn
  deriving DecidableEq, Repr

/-- The machine right after the hardware reset that starts it: every register at its value of R301, every DMEM byte
unwritten (R302). The values of `reply`, `hwResets`, `aborted` and `turns` are DESIGN CHOICES (log entries 1 to 4). -/
def State.reset : State where
  src := 0
  dst := 0
  len := 0
  lcmd := 0
  lsrc := 0
  ldst := 0
  llen := 0
  busy := false
  done := false
  err := false
  padfmt := false
  errcode := 0
  outlen := 0
  intStatus := 0
  intEnable := 0
  keyN := 0
  keyE := 0
  keyD := 0
  nb := 0
  keyValid := false
  nonce := 0
  ctrCount := 0
  ctrOpen := false
  mem := []
  reply := none
  hwResets := 0
  aborted := []
  turns := []

end Sys2Proof.Machine
end

