-- ==== Sys2Proof/Machine/Flags.lean ====
section
/-! DEFINITION. The flags: error codes, STATUS, INT_STATUS and irq (10_state.md R40 to R47, R54, R55, R65;
60_exceptions.md R261, R272, R273). EMRSA has no arithmetic condition codes (R65). -/

namespace Sys2Proof.Machine

/-- The nonzero error codes of R261, in their order of priority (R262). -/
inductive ErrorCode where
  | illegalCmd
  | keyNotConfigured
  | modUnsupported
  | blockSize
  | lenInvalid
  | ctrAlign
  | ctrExhausted
  | dmemRange
  | overlap
  deriving DecidableEq, Repr

/-- The value ERRCODE.CODE shows (R261). -/
def errorValue : ErrorCode → BitVec 4
  | .illegalCmd => 0x1
  | .keyNotConfigured => 0x2
  | .modUnsupported => 0x3
  | .blockSize => 0x4
  | .lenInvalid => 0x5
  | .ctrAlign => 0x6
  | .ctrExhausted => 0x7
  | .dmemRange => 0x8
  | .overlap => 0x9

/-- INT_STATUS.DONE_EV (R54). -/
def doneEv : BitVec 4 := 0b0001

/-- INT_STATUS.ERR_EV (R54). -/
def errEv : BitVec 4 := 0b0010

/-- INT_STATUS.OVERRUN_EV (R54). -/
def overrunEv : BitVec 4 := 0b0100

/-- INT_STATUS.ACCESS_EV (R54). -/
def accessEv : BitVec 4 := 0b1000

/-- Set INT_STATUS bits; a set wins over nothing and disturbs no other bit (R54, R274). -/
def raiseEvents (ev : BitVec 4) (s : State) : State := { s with intStatus := s.intStatus ||| ev }

/-- A W1C write: clear each bit written as 1 (R33, R54). -/
def clearEvents (w : BitVec 4) (s : State) : State := { s with intStatus := s.intStatus &&& ~~~w }

/-- The irq output: OR over the four bits of INT_STATUS AND INT_ENABLE (R272). -/
def irq (s : State) : Bool := s.intStatus &&& s.intEnable != 0

/-- STATUS as software reads it: BUSY 0, DONE 1, ERR 2, KEY_VALID 3, CTR_OPEN 4, PADFMT 5, the rest 0 (R32, R40). -/
def statusWord (s : State) : Word :=
  BitVec.ofNat 32
    (s.busy.toNat + s.done.toNat * 2 + s.err.toNat * 4 + s.keyValid.toNat * 8 + s.ctrOpen.toNat * 16 + s.padfmt.toNat * 32)

end Sys2Proof.Machine
end

