-- ==== Sys2Proof/Machine/Memory.lean ====
section
/-! DEFINITION. DMEM as plain data (20_memory.md R80, R105): one byte, byte ranges, and making a range unwritten again. -/

namespace Sys2Proof.Machine

/-- The byte written at an address, or none where it is unwritten: what an unlisted address holds (R105). -/
def memGet : Memory → Nat → Option Byte
  | [], _ => none
  | (a', b') :: rest, a => if a = a' then some b' else memGet rest a

/-- Write one byte, keeping the addresses strictly rising. -/
def memSet : Memory → Nat → Byte → Memory
  | [], a, b => [(a, b)]
  | (a', b') :: rest, a, b =>
    if a < a' then (a, b) :: (a', b') :: rest
    else if a = a' then (a, b) :: rest
    else (a', b') :: memSet rest a b

/-- MemWrite(a, s) of 00_scope.md R21: byte i of s at address a + i. -/
def memWrite (m : Memory) (a : Nat) : List Byte → Memory
  | [] => m
  | b :: s => memWrite (memSet m a b) (a + 1) s

/-- Whether an address is one of the k addresses from a. -/
def inRange (a k x : Nat) : Bool := a ≤ x && x < a + k

/-- Make the k bytes from address a unwritten (70_reset_and_hazards.md R304). -/
def memErase (m : Memory) (a k : Nat) : Memory := m.filter (fun c => !inRange a k c.1)

/-- The canonical form of DMEM: addresses strictly rising and inside DMEM. An unlisted address is unwritten and no listed
entry says "unwritten", so equal memories are equal lists. -/
abbrev Memory.wf (m : Memory) : Prop :=
  m.Pairwise (fun x y => x.1 < y.1) ∧ ∀ c ∈ m, c.1 < Config.dmemSize

end Sys2Proof.Machine
end

