-- ==== Sys2Proof/Machine/Bytes.lean ====
section
/-! DEFINITION. Byte strings and their big-endian values: 00_scope.md R18, R19, R20. -/

namespace Sys2Proof.Machine

/-- BE(s), the big-endian unsigned value of a byte string (R19). -/
def be (s : List Byte) : Nat := s.foldl (fun acc b => acc * 256 + b.toNat) 0

/-- I2BE(v, k), the k-byte big-endian string of v (R19). For v ≥ 256^k, which the spec never uses, it keeps the k low bytes. -/
def i2be (v : Nat) : Nat → List Byte
  | 0 => []
  | k + 1 => i2be (v / 256) k ++ [BitVec.ofNat 8 v]

/-- zeros(k) (R18). -/
def zeros (k : Nat) : List Byte := List.replicate k 0

/-- s[i..j), cut at the end of s (R18 and the `min` of R204 and R232). -/
def slice (s : List Byte) (i j : Nat) : List Byte := (s.drop i).take (j - i)

/-- XOR(a, b), of the length of the shorter string (R20). -/
def xorBytes (a b : List Byte) : List Byte := List.zipWith (· ^^^ ·) a b

/-- ceil(a / b). -/
def ceilDiv (a b : Nat) : Nat := (a + b - 1) / b

/-- The concatenation of the strings `f 0 ‖ f 1 ‖ ... ‖ f (n-1)`. -/
def concatBlocks (n : Nat) (f : Nat → List Byte) : List Byte := (List.range n).flatMap f

end Sys2Proof.Machine
end

