-- ==== Sys2Proof/Machine/Operands.lean ====
section
/-! DEFINITION. The implicit operands of every command: the operand table of 30_encoding.md R123, the range rule of
20_memory.md R94 and the overlap rule of R96, and the parts of the checks of 60_exceptions.md R262. -/

namespace Sys2Proof.Machine

/-- NB as a number. -/
def blockLen (s : State) : Nat := s.nb.toNat

/-- K = NB - PAD_LEN, the plaintext bytes of one ECB block (42_ecb.md R200). Where NB < PAD_LEN + 1 the BLOCK_SIZE check
stops the command before K is used. -/
def chunkLen (s : State) : Nat := blockLen s - Config.padLen

/-- INLEN, the number of bytes a command reads at LSRC (R123). -/
def inLen (i : Instr) (s : State) : Nat :=
  match i with
  | .nop => 0
  | .setKeys => 3 * s.llen.toNat
  | .setNonce => s.llen.toNat
  | .modexpPub => blockLen s
  | .modexpPrv => blockLen s
  | .ecbEnc => s.llen.toNat
  | .ecbDec => s.llen.toNat
  | .ctr => s.llen.toNat
  | .ctrCont => s.llen.toNat
  | .montmul => 2 * blockLen s
  | .barrett => 2 * blockLen s

/-- OUTMAX, the largest number of bytes a command may write at LDST (R123). -/
def outMax (i : Instr) (s : State) : Nat :=
  match i with
  | .nop => 0
  | .setKeys => 0
  | .setNonce => 0
  | .modexpPub => blockLen s
  | .modexpPrv => blockLen s
  | .ecbEnc => ceilDiv s.llen.toNat (chunkLen s) * blockLen s
  | .ecbDec => s.llen.toNat / blockLen s * chunkLen s
  | .ctr => s.llen.toNat
  | .ctrCont => s.llen.toNat
  | .montmul => blockLen s
  | .barrett => blockLen s

/-- The key-using commands (40_key_engine.md R151). -/
def keyUsing (i : Instr) : Bool :=
  match i with
  | .nop => false
  | .setKeys => false
  | .setNonce => false
  | .modexpPub => true
  | .modexpPrv => true
  | .ecbEnc => true
  | .ecbDec => true
  | .ctr => true
  | .ctrCont => true
  | .montmul => true
  | .barrett => true

/-- ECB_ENC or ECB_DEC. -/
def isEcb (i : Instr) : Bool := i == .ecbEnc || i == .ecbDec

/-- The CTR command, with either value of CONT. -/
def isCtr (i : Instr) : Bool := i == .ctr || i == .ctrCont

/-- SET_KEYS or SET_NONCE. -/
def isLoad (i : Instr) : Bool := i == .setKeys || i == .setNonce

/-- The counter a CTR command starts from: CTR_COUNT when CONT = 1, else 0 (43_ctr.md R232, R233). -/
def ctrBase (i : Instr) (s : State) : Nat := if i = .ctrCont then s.ctrCount.toNat else 0

/-- The number of blocks, full or short, of a CTR command (R232). -/
def ctrBlocks (s : State) : Nat := ceilDiv s.llen.toNat (blockLen s)

/-- A byte range is in DMEM iff it is empty or ends at or below DMEM_SIZE, the sum unbounded (R94). -/
def inDmem (a k : Nat) : Bool := k == 0 || a + k ≤ Config.dmemSize

/-- Two ranges overlap when both are nonempty and each starts before the other's end (R96). -/
def rangesOverlap (a j b k : Nat) : Bool := j != 0 && k != 0 && a < b + k && b < a + j

/-- An overlap that R96 does not allow: any but the exact in-place form, and that one too for ECB_ENC. -/
def overlapForbidden (i : Instr) (s : State) : Bool :=
  rangesOverlap s.lsrc.toNat (inLen i s) s.ldst.toNat (outMax i s) && !(s.ldst == s.lsrc && i != .ecbEnc)

/-- The modulus is usable: odd and at least 3 (41_modexp_arith.md R170). -/
def modUsable (s : State) : Bool := s.keyN.toNat % 2 == 1 && 3 ≤ s.keyN.toNat

/-- The length of SET_KEYS and SET_NONCE is in 1..MAX_BYTES (R261, LEN_INVALID). -/
def loadLenOk (s : State) : Bool := 1 ≤ s.llen.toNat && s.llen.toNat ≤ Config.maxBytes

end Sys2Proof.Machine
end

