-- ==== Sys2Proof/Machine/Ops.lean ====
section
/-! DEFINITION. The shared operations: the engine's access to DMEM (20_memory.md R93, R95, R105), the checks of a command
(60_exceptions.md R262), its start (R267) and its two completions (R265, the analogue of taking an exception, and R266),
and the two resets with the abort of a pending command (70_reset_and_hazards.md R301 to R304). There is no return from an
error beside it: R270 says there is none. -/

namespace Sys2Proof.Machine

/-- How many output ranges abandoned since the last hardware reset cover an address: which of its draws is the current one. -/
def abortsOver (s : State) (a : Nat) : Nat := s.aborted.countP (fun r => inRange r.1 r.2 a)

/-- M[a]: the byte written at a, or the draw an unwritten byte reads as (R105). -/
def dmemByte (s : State) (a : Nat) : Byte :=
  (memGet s.mem a).getD (Config.dmemDraw s.hwResets (abortsOver s a) a)

/-- MemRead(a, k) (00_scope.md R21). -/
def readBytes (s : State) (a k : Nat) : List Byte := (List.range k).map (fun i => dmemByte s (a + i))

/-- MemWrite(LDST, out) and OUTLEN <- len(out): how every command stores its output (10_state.md R51). -/
def storeOut (out : List Byte) (s : State) : State :=
  { s with mem := memWrite s.mem s.ldst.toNat out, outlen := BitVec.ofNat 32 out.length }

/-- OUTLEN <- 0, of the commands that write nothing. -/
def noOut (s : State) : State := { s with outlen := 0 }

/-- Check(cmd, S) of R262 for a legal command: the first check that holds, in priority order, each made for the commands
R263 lists. -/
def check (i : Instr) (s : State) : Option ErrorCode :=
  if keyUsing i && !s.keyValid then some .keyNotConfigured
  else if keyUsing i && !modUsable s then some .modUnsupported
  else if isEcb i && decide (blockLen s < Config.padLen + 1) then some .blockSize
  else if isLoad i && !loadLenOk s then some .lenInvalid
  else if i == .ecbDec && s.llen.toNat % blockLen s != 0 then some .lenInvalid
  else if i == .ctrCont && !s.ctrOpen then some .ctrAlign
  else if isCtr i && decide (Config.ctrMax < ctrBase i s + ctrBlocks s) then some .ctrExhausted
  else if !inDmem s.lsrc.toNat (inLen i s) || !inDmem s.ldst.toNat (outMax i s) then some .dmemRange
  else if overlapForbidden i s then some .overlap
  else none

/-- Error completion (R265): the code is recorded, the command is over, and nothing else changes. -/
def completeError (c : ErrorCode) (s : State) : State :=
  raiseEvents (doneEv ||| errEv) { s with errcode := errorValue c, err := true, done := true, busy := false }

/-- Successful completion (R266), after the command's own effects. -/
def completeOk (s : State) : State :=
  raiseEvents doneEv { s with errcode := 0, err := false, done := true, busy := false }

/-- How every command ends (R150): the first check that holds ends it with that error and no other effect, else its effect
is taken and it completes. -/
def settle (i : Instr) (effect : State → State) (s : State) : Host.Outcome State Fault Refusal :=
  match check i s with
  | some c => .next (completeError c s)
  | none => .next (completeOk (effect s))

/-- Command start (R267): the word and the operands are latched, the result registers cleared. -/
def startCommand (w : Word) (s : State) : State :=
  { s with
    lcmd := w, lsrc := s.src, ldst := s.dst, llen := s.len,
    busy := true, done := false, err := false, padfmt := false, errcode := 0, outlen := 0 }

/-- The output range a reset would abandon (R304): [LDST, LDST + OUTMAX) of a pending command whose checks would pass. -/
def pendingOutput (s : State) : Option (Nat × Nat) :=
  if s.busy then
    match decode s.lcmd with
    | .illegal _ => none
    | .command i => if check i s = none then some (s.ldst.toNat, outMax i s) else none
  else none

/-- Make a byte range unwritten, with fresh draws (R304). -/
def abandonRange (r : Nat × Nat) (s : State) : State :=
  { s with mem := memErase s.mem r.1 r.2, aborted := r :: s.aborted }

/-- DMEM at a soft reset: preserved, but for the output range of an abandoned command (R303, R304). -/
def abandonPending (s : State) : State :=
  match pendingOutput s with
  | none => s
  | some r => abandonRange r s

/-- The soft reset (R303): every register at its value of R301, DMEM as `abandonPending` leaves it; the outside world's
turns go on. -/
def softReset (s : State) : State :=
  { State.reset with
    mem := (abandonPending s).mem, aborted := (abandonPending s).aborted, hwResets := s.hwResets, turns := s.turns }

/-- The hardware reset (R301, R302): every register at its reset value and every DMEM byte unwritten, with fresh draws. -/
def hardReset (s : State) : State := { State.reset with hwResets := s.hwResets + 1, turns := s.turns }

end Sys2Proof.Machine
end

