-- ==== Sys2Proof/Machine/Bus.lean ====
section
/-! DEFINITION. Host bus accesses: the register map and its access kinds (10_state.md R32 to R56), the DMEM window
(20_memory.md R83 to R86), alignment, strobes, responses and reserved regions (R87 to R89, R106), and the host writes with
effects beyond a value: CMD, CTRL, INT_STATUS (60_exceptions.md R267 to R269, 70_reset_and_hazards.md R303). -/

namespace Sys2Proof.Machine

/-- The fifteen registers (R32). -/
inductive Reg where
  | id
  | version
  | ctrl
  | cmd
  | status
  | errcode
  | src
  | dst
  | len
  | outlen
  | ctrCount
  | blklen
  | intStatus
  | intEnable
  | params
  deriving DecidableEq, Repr

/-- The offset of a register (R32). -/
def regOffset : Reg → Nat
  | .id => 0x000
  | .version => 0x004
  | .ctrl => 0x008
  | .cmd => 0x00C
  | .status => 0x010
  | .errcode => 0x014
  | .src => 0x018
  | .dst => 0x01C
  | .len => 0x020
  | .outlen => 0x024
  | .ctrCount => 0x028
  | .blklen => 0x02C
  | .intStatus => 0x030
  | .intEnable => 0x034
  | .params => 0x038

/-- What an aligned bus address reaches (R82). -/
inductive Target where
  /-- A register of the map. -/
  | reg (r : Reg)
  /-- A reserved offset of the register block, 0x03C to 0xFFC (R34). -/
  | reservedOffset
  /-- The reserved region 0x01000 to 0x0FFFF (R106). -/
  | reservedRegion
  /-- The DMEM window; `base` is the DMEM address 4k of the word (R83). -/
  | window (base : Nat)
  deriving DecidableEq, Repr

/-- The register at a word-aligned offset below 0x1000, if it is not a reserved one (R32). -/
def regAt (offset : Nat) : Target :=
  match offset with
  | 0x000 => .reg .id
  | 0x004 => .reg .version
  | 0x008 => .reg .ctrl
  | 0x00C => .reg .cmd
  | 0x010 => .reg .status
  | 0x014 => .reg .errcode
  | 0x018 => .reg .src
  | 0x01C => .reg .dst
  | 0x020 => .reg .len
  | 0x024 => .reg .outlen
  | 0x028 => .reg .ctrCount
  | 0x02C => .reg .blklen
  | 0x030 => .reg .intStatus
  | 0x034 => .reg .intEnable
  | 0x038 => .reg .params
  | _ => .reservedOffset

/-- The bus address map (R82). -/
def targetOf (a : BusAddr) : Target :=
  if a.toNat < 0x1000 then regAt a.toNat
  else if a.toNat < 0x10000 then .reservedRegion
  else .window (a.toNat - 0x10000)

/-- PADDR[1:0] is not 00 (R88). -/
def misaligned (a : BusAddr) : Bool := a.toNat % 4 != 0

/-- The value a register reads as (R32, R36 to R56); CTRL is write-only and reads 0 (R38). -/
def readReg (r : Reg) (s : State) : Word :=
  match r with
  | .id => Config.idValue
  | .version => Config.versionValue
  | .ctrl => 0
  | .cmd => s.lcmd
  | .status => statusWord s
  | .errcode => s.errcode.setWidth 32
  | .src => s.src
  | .dst => s.dst
  | .len => s.len
  | .outlen => s.outlen
  | .ctrCount => s.ctrCount
  | .blklen => s.nb.setWidth 32
  | .intStatus => s.intStatus.setWidth 32
  | .intEnable => s.intEnable.setWidth 32
  | .params => Config.paramsValue

/-- A CMD write (R39): it starts a command, or is lost with OVERRUN_EV while one is pending (60_exceptions.md R267, R268). -/
def writeCmd (w : Word) (s : State) : State :=
  if s.busy then raiseEvents overrunEv s else startCommand w s

/-- A CTRL write (R38): bit 0 performs the soft reset. -/
def writeCtrl (w : Word) (s : State) : State := if w.getLsbD 0 then softReset s else s

/-- A full-strobe register write, by access kind (R33). -/
def writeReg (r : Reg) (w : Word) (s : State) : State :=
  match r with
  | .id => s
  | .version => s
  | .ctrl => writeCtrl w s
  | .cmd => writeCmd w s
  | .status => s
  | .errcode => s
  | .src => { s with src := w }
  | .dst => { s with dst := w }
  | .len => { s with len := w }
  | .outlen => s
  | .ctrCount => s
  | .blklen => s
  | .intStatus => clearEvents (w.setWidth 4) s
  | .intEnable => { s with intEnable := w.setWidth 4 }
  | .params => s

/-- Byte lane i of a bus word (R83). -/
def lane (w : Word) (i : Nat) : Byte := w.extractLsb' (8 * i) 8

/-- The window word at DMEM address 4k while idle: lane i is byte 4k + i (R84). -/
def windowWord (s : State) (base : Nat) : Word :=
  dmemByte s (base + 3) ++ dmemByte s (base + 2) ++ dmemByte s (base + 1) ++ dmemByte s base

/-- Write lane i at DMEM byte base + i if its strobe is 1 (R85). -/
def writeLane (base : Nat) (w : Word) (strb : Strobe) (m : Memory) (i : Nat) : Memory :=
  if strb.getLsbD i then memSet m (base + i) (lane w i) else m

/-- The window write at DMEM address 4k while idle (R85). -/
def windowWrite (base : Nat) (w : Word) (strb : Strobe) (s : State) : State :=
  { s with mem := [0, 1, 2, 3].foldl (writeLane base w strb) s.mem }

/-- Record the port's answer to a transfer. -/
def answer (r : Reply) (s : State) : State := { s with reply := some r }

/-- An aligned read (R33, R84, R86, R106). -/
def busRead (a : BusAddr) (s : State) : State :=
  match targetOf a with
  | .reg r => answer (.read (readReg r s) false) s
  | .reservedOffset => answer (.read 0 false) s
  | .reservedRegion => answer (.read 0 false) s
  | .window base =>
    if s.busy then answer (.read 0 false) (raiseEvents accessEv s)
    else answer (.read (windowWord s base) false) s

/-- A register-block write needs all four strobes (R87), at reserved offsets too (log entry 7). -/
def busWrite (a : BusAddr) (w : Word) (strb : Strobe) (s : State) : State :=
  match targetOf a with
  | .reg r => if strb = 0b1111 then answer (.write false) (writeReg r w s) else answer (.write true) s
  | .reservedOffset => answer (.write (strb != 0b1111)) s
  | .reservedRegion => answer (.write false) s
  | .window base =>
    if s.busy then answer (.write false) (raiseEvents accessEv s)
    else answer (.write false) (windowWrite base w strb s)

/-- One bus transfer (R88 first: a misaligned access has no effect in any region). -/
def busAccess (t : Transfer) (s : State) : State :=
  if misaligned t.addr then
    if t.write then answer (.write true) s else answer (.read 0 true) s
  else if t.write then busWrite t.addr t.data t.strobe s
  else busRead t.addr s

end Sys2Proof.Machine
end

