-- ==== Sys2Proof/Machine/Arith.lean ====
section
/-! DEFINITION. The exact modular arithmetic of 00_scope.md R16 and 41_modexp_arith.md R171, R177, R178, on unbounded
natural numbers. Laws/Arith.lean proves each function equal to the formula of its rule. -/

namespace Sys2Proof.Machine

/-- x^k mod n read from the `bits` low bits of the exponent k (R188), so that it can be evaluated for real keys. -/
def powBits (n x : Nat) : Nat → Nat → Nat
  | 0, _ => 1 % n
  | bits + 1, k =>
    let h := powBits n x bits (k / 2)
    let sq := h * h % n
    if k % 2 = 1 then sq * x % n else sq

/-- ModExp(x, k) = x^k mod n (R171); the lemma `modExp_eq` says so. -/
def modExp (n x k : Nat) : Nat := powBits n (x % n) (Nat.log2 k + 1) k

/-- Euclid's descent for `modInv`: from an inverse y of m mod a modulo a to the inverse of a modulo m. -/
def invDescent : Nat → Nat → Nat → Nat
  | 0, a, _ => a
  | fuel + 1, a, m =>
    if a ≤ 1 then a
    else (1 + m * (a - invDescent fuel (m % a) a)) / a

/-- inv(a, m), the b in 0..m-1 with a*b mod m = 1 when gcd(a, m) = 1 (R16); the lemma `modInv_spec` says so. -/
def modInv (a m : Nat) : Nat := invDescent m (a % m) m

/-- The Montgomery radix R = 2^(8*NB) (R15). -/
def montRadix (nb : Nat) : Nat := 2 ^ (8 * nb)

/-- The Montgomery product (a * b * inv(R, N)) mod N (R177). -/
def montProduct (n nb a b : Nat) : Nat := a * b * modInv (montRadix nb) n % n

/-- Barrett's result x mod N (R178). -/
def barrettResult (n x : Nat) : Nat := x % n

end Sys2Proof.Machine
end

