-- ==== Sys2Proof/Machine/Ctr.lean ====
section
/-! DEFINITION. The nonce, the keystream and the commands SET_NONCE, CTR and CTR.CONT: 43_ctr.md R230 to R244. -/

namespace Sys2Proof.Machine

/-- The effect of SET_NONCE (R230): the nonce loaded and the stream closed. -/
def loadNonce (s : State) : State :=
  { s with
    nonce := BitVec.ofNat 4096 (be (readBytes s s.lsrc.toNat s.llen.toNat)),
    ctrCount := 0, ctrOpen := false, outlen := 0 }

/-- SET_NONCE (R230). -/
def execSetNonce (s : State) : Host.Outcome State Fault Refusal := settle .setNonce loadNonce s

/-- Keystream block KS(i) = I2BE((NONCE + i)^E mod N, NB), the sum exact (R231). -/
def keystream (s : State) (i : Nat) : List Byte :=
  i2be (modExp s.keyN.toNat (s.nonce.toNat + i) s.keyE.toNat) (blockLen s)

/-- Output block j of a CTR command whose first counter value is base (R232, R234). -/
def ctrBlock (base : Nat) (s : State) (j : Nat) : List Byte :=
  xorBytes (slice (readBytes s s.lsrc.toNat s.llen.toNat) (j * blockLen s) ((j + 1) * blockLen s)) (keystream s (base + j))

/-- The whole output of a CTR command (R232). -/
def ctrOut (base : Nat) (s : State) : List Byte := concatBlocks (ctrBlocks s) (ctrBlock base s)

/-- The effect of a CTR command (R232): output, counter, and whether the stream may be continued (R235). -/
def ctrEffect (base : Nat) (s : State) : State :=
  { storeOut (ctrOut base s) s with
    ctrCount := BitVec.ofNat 32 (base + ctrBlocks s),
    ctrOpen := s.llen.toNat % blockLen s == 0 }

/-- CTR with CONT = 0 (R232, R233): a stream that starts at counter 0. -/
def execCtr (s : State) : Host.Outcome State Fault Refusal := settle .ctr (fun s => ctrEffect (ctrBase .ctr s) s) s

/-- CTR with CONT = 1 (R232, R236): the open stream continued from CTR_COUNT. -/
def execCtrCont (s : State) : Host.Outcome State Fault Refusal :=
  settle .ctrCont (fun s => ctrEffect (ctrBase .ctrCont s) s) s

end Sys2Proof.Machine
end

