-- ==== Sys2Proof/Machine/ModArith.lean ====
section
/-! DEFINITION. MODEXP_PUB, MODEXP_PRV, MONTMUL and BARRETT: 41_modexp_arith.md R171 to R179. -/

namespace Sys2Proof.Machine

/-- The NB-byte block at LSRC raised to the exponent k modulo N, as NB bytes (R171, R172, R173). -/
def modexpOut (k : Nat) (s : State) : List Byte :=
  i2be (modExp s.keyN.toNat (be (readBytes s s.lsrc.toNat (blockLen s))) k) (blockLen s)

/-- MODEXP_PUB (R172): x^E mod N. -/
def execModexpPub (s : State) : Host.Outcome State Fault Refusal :=
  settle .modexpPub (fun s => storeOut (modexpOut s.keyE.toNat s) s) s

/-- MODEXP_PRV (R173): y^D mod N. -/
def execModexpPrv (s : State) : Host.Outcome State Fault Refusal :=
  settle .modexpPrv (fun s => storeOut (modexpOut s.keyD.toNat s) s) s

/-- The Montgomery product of the two NB-byte operands at LSRC, as NB bytes (R177). -/
def montmulOut (s : State) : List Byte :=
  let t := readBytes s s.lsrc.toNat (2 * blockLen s)
  let a := be (slice t 0 (blockLen s))
  let b := be (slice t (blockLen s) (2 * blockLen s))
  i2be (montProduct s.keyN.toNat (blockLen s) a b) (blockLen s)

/-- MONTMUL (R177). -/
def execMontmul (s : State) : Host.Outcome State Fault Refusal :=
  settle .montmul (fun s => storeOut (montmulOut s) s) s

/-- The 2*NB-byte value at LSRC reduced mod N, as NB bytes (R178). -/
def barrettOut (s : State) : List Byte :=
  i2be (barrettResult s.keyN.toNat (be (readBytes s s.lsrc.toNat (2 * blockLen s)))) (blockLen s)

/-- BARRETT (R178). -/
def execBarrett (s : State) : Host.Outcome State Fault Refusal :=
  settle .barrett (fun s => storeOut (barrettOut s) s) s

end Sys2Proof.Machine
end

