-- ==== Sys2Proof/Machine/Ecb.lean ====
section
/-! DEFINITION. ECB framing and the commands ECB_ENC and ECB_DEC: 42_ecb.md R200 to R213. -/

namespace Sys2Proof.Machine

/-- Frame(c) for block size nb: the leading zeros of a PAD_LEN above 2, the 2-byte count of filler zeros, the filler, the
chunk (R201). -/
def frame (nb : Nat) (c : List Byte) : List Byte :=
  let nz := nb - Config.padLen - c.length
  zeros (Config.padLen - 2) ++ i2be nz 2 ++ zeros nz ++ c

/-- Unframe(b): the chunk and false, or nothing and true for a malformed pad field (R203, R207). -/
def unframe (nb : Nat) (b : List Byte) : List Byte × Bool :=
  let nz := be (slice b (Config.padLen - 2) Config.padLen)
  if nz ≤ nb - Config.padLen then (slice b (Config.padLen + nz) nb, false) else ([], true)

/-- Chunk j of the plaintext (R204). -/
def ecbChunk (s : State) (j : Nat) : List Byte :=
  slice (readBytes s s.lsrc.toNat s.llen.toNat) (j * chunkLen s) ((j + 1) * chunkLen s)

/-- Ciphertext block j: the frame of chunk j raised to E (R204). -/
def ecbEncBlock (s : State) (j : Nat) : List Byte :=
  i2be (modExp s.keyN.toNat (be (frame (blockLen s) (ecbChunk s j))) s.keyE.toNat) (blockLen s)

/-- The whole ciphertext (R204, R205). -/
def ecbEncOut (s : State) : List Byte := concatBlocks (ceilDiv s.llen.toNat (chunkLen s)) (ecbEncBlock s)

/-- ECB_ENC (R204). -/
def execEcbEnc (s : State) : Host.Outcome State Fault Refusal :=
  settle .ecbEnc (fun s => storeOut (ecbEncOut s) s) s

/-- Decrypted buffer j: ciphertext block j raised to D (R206). -/
def ecbDecBuffer (s : State) (j : Nat) : List Byte :=
  i2be
    (modExp s.keyN.toNat
      (be (slice (readBytes s s.lsrc.toNat s.llen.toNat) (j * blockLen s) ((j + 1) * blockLen s))) s.keyD.toNat)
    (blockLen s)

/-- The number of ciphertext blocks (R206). -/
def ecbDecBlocks (s : State) : Nat := s.llen.toNat / blockLen s

/-- The whole plaintext: the pieces of the well-formed buffers (R206). -/
def ecbDecOut (s : State) : List Byte :=
  concatBlocks (ecbDecBlocks s) (fun j => (unframe (blockLen s) (ecbDecBuffer s j)).1)

/-- Whether some block had a malformed pad field (R207). -/
def ecbDecBad (s : State) : Bool :=
  (List.range (ecbDecBlocks s)).any (fun j => (unframe (blockLen s) (ecbDecBuffer s j)).2)

/-- ECB_DEC (R206): the plaintext stored, PADFMT set from the pad fields. -/
def execEcbDec (s : State) : Host.Outcome State Fault Refusal :=
  settle .ecbDec (fun s => { storeOut (ecbDecOut s) s with padfmt := ecbDecBad s }) s

end Sys2Proof.Machine
end

