-- ==== Sys2Proof/Machine/KeyEngine.lean ====
section
/-! DEFINITION. The key engine commands NOP and SET_KEYS: 40_key_engine.md R152 to R159. -/

namespace Sys2Proof.Machine

/-- NOP (R152): only the common completion. -/
def execNop (s : State) : Host.Outcome State Fault Refusal := settle .nop noOut s

/-- The effect of SET_KEYS (R153): the triple n ‖ e ‖ d, the block size, KEY_VALID, and the stream closed (R156). -/
def installKeys (s : State) : State :=
  let l := s.llen.toNat
  let t := readBytes s s.lsrc.toNat (3 * l)
  { s with
    keyN := BitVec.ofNat 4096 (be (slice t 0 l)),
    keyE := BitVec.ofNat 4096 (be (slice t l (2 * l))),
    keyD := BitVec.ofNat 4096 (be (slice t (2 * l) (3 * l))),
    nb := BitVec.ofNat 10 l, keyValid := true, ctrCount := 0, ctrOpen := false, outlen := 0 }

/-- SET_KEYS (R153, R154). -/
def execSetKeys (s : State) : Host.Outcome State Fault Refusal := settle .setKeys installKeys s

end Sys2Proof.Machine
end

