-- ==== Sys2Proof/Machine/Dispatch.lean ====
section
/-! DEFINITION. The one dispatch of commands to their meanings (30_encoding.md R122). -/

namespace Sys2Proof.Machine

def exec (i : Instr) (s : State) : Host.Outcome State Fault Refusal :=
  match i with
  | .nop => Sys2Proof.Machine.execNop s
  | .setKeys => Sys2Proof.Machine.execSetKeys s
  | .setNonce => Sys2Proof.Machine.execSetNonce s
  | .modexpPub => Sys2Proof.Machine.execModexpPub s
  | .modexpPrv => Sys2Proof.Machine.execModexpPrv s
  | .ecbEnc => Sys2Proof.Machine.execEcbEnc s
  | .ecbDec => Sys2Proof.Machine.execEcbDec s
  | .ctr => Sys2Proof.Machine.execCtr s
  | .ctrCont => Sys2Proof.Machine.execCtrCont s
  | .montmul => Sys2Proof.Machine.execMontmul s
  | .barrett => Sys2Proof.Machine.execBarrett s

end Sys2Proof.Machine
end

