-- ==== Sys2Proof/Machine/Engine.lean ====
section
/-! DEFINITION. The two agents and their turns: EngineStep (60_exceptions.md R267), the host's transfers and rst_n
(70_reset_and_hazards.md R300, R320), and which of them moves next. -/

namespace Sys2Proof.Machine

/-- The engine completes the pending command: an illegal word with ILLEGAL_CMD (30_encoding.md R125), any other by its
meaning. -/
def runPending (s : State) : Host.Outcome State Fault Refusal :=
  match decode s.lcmd with
  | .illegal _ => .next (completeError .illegalCmd s)
  | .command i => exec i s

/-- EngineStep, enabled iff BUSY = 1 (R267, R320): with no command pending nothing happens (R306). -/
def engineStep (s : State) : Host.Outcome State Fault Refusal :=
  if s.busy then runPending s else .next s

/-- A host transfer in the cycle of the engine's completion (log entry 5): the transfer sees BUSY = 1, and the completion's
events are set after its W1C clear (10_state.md R54, 60_exceptions.md R274). A command that the same transfer starts is not
completed in its cycle. -/
def sameCycle (t : Transfer) (s : State) : Host.Outcome State Fault Refusal :=
  if s.busy then engineStep (busAccess t s) else .next (busAccess t s)

/-- What one turn does. -/
def takeTurn (t : Turn) (s : State) : Host.Outcome State Fault Refusal :=
  match t with
  | .host x => .next (busAccess x s)
  | .engine => engineStep s
  | .hostAndEngine x => sameCycle x s
  | .hardReset => .next (hardReset s)

/-- The machine's step: the next turn, or, with no turn left, the engine's (weak fairness, 70_reset_and_hazards.md R317). -/
def nextTurn (s : State) : Host.Outcome State Fault Refusal :=
  match s.turns with
  | [] => engineStep s
  | t :: rest => takeTurn t { s with turns := rest }

/-- The command word placed as an accepted CMD write leaves it (R267), with the engine to move next. -/
def placeCommand (w : Word) (s : State) : State :=
  { startCommand w s with turns := .engine :: s.turns }

end Sys2Proof.Machine
end

