-- ==== Sys2Proof/Machine/Step.lean ====
section
/-! DEFINITION. The step of the machine and the placing of a command word for it (log entry 6). EMRSA fetches nothing
(10_state.md R31): a command word comes to run by a host write to CMD. -/

namespace Sys2Proof.Machine

/-- One step of the machine (70_reset_and_hazards.md R320). -/
def step (s : State) : Host.Outcome State Fault Refusal := Sys2Proof.Machine.nextTurn s

/-- The instruction whose `nbits` low bits are `w`, latched as the pending command, so that the next step runs it. -/
def State.withFetchWord (s : State) (nbits w : Nat) : State :=
  Sys2Proof.Machine.placeCommand (BitVec.ofNat 32 (w % 2 ^ nbits)) s

end Sys2Proof.Machine
end

