-- ==== Sys2Proof/Machine/Datapath.lean ====
section
/-! DEFINITION. The reference datapath of 41_modexp_arith.md R181 to R187, which is informative: no meaning uses it (R180), and
none of it is state (10_state.md R63). It is here so that its agreement with the exact results can be stated and proved. -/

namespace Sys2Proof.Machine

/-- N' = (-inv(N, 256)) mod 256 (R181). -/
def refNPrime (n : Nat) : Nat := (256 - modInv n 256) % 256

/-- β = bitlen(N) (R181). -/
def refBeta (n : Nat) : Nat := Nat.log2 n + 1

/-- μ = floor(2^(2β) / N) (R181). -/
def refMu (n : Nat) : Nat := 2 ^ (2 * refBeta n) / n

/-- `while r >= N: r <- r - N`, at most twice (R187). -/
def subAtMostTwice (n r : Nat) : Nat :=
  let r1 := if n ≤ r then r - n else r
  if n ≤ r1 then r1 - n else r1

/-- The Barrett step for x < 2^(2β) (R186). -/
def barrettStep (n x : Nat) : Nat :=
  let q := x / 2 ^ (refBeta n - 1) * refMu n / 2 ^ (refBeta n + 1)
  subAtMostTwice n (x - q * n)

/-- BarrettRef of R187 with a bound on the depth of the splits x = h*2^β + l. -/
def barrettSplit (n : Nat) : Nat → Nat → Nat
  | 0, x => barrettStep n x
  | depth + 1, x =>
    if 2 ^ (2 * refBeta n) ≤ x then
      barrettSplit n depth (barrettSplit n depth (x / 2 ^ refBeta n) * 2 ^ refBeta n + x % 2 ^ refBeta n)
    else barrettStep n x

/-- BarrettRef(x) (R187): every split removes at least one bit, so bitlen(x) bounds the depth. -/
def barrettRef (n x : Nat) : Nat := barrettSplit n (Nat.log2 x + 1) x

/-- One digit of the Montgomery loop (R183): t <- (t + a_i*b + u*N) / 256 with u chosen to make the division exact. -/
def monDigit (n b t ai : Nat) : Nat :=
  let t1 := t + ai * b
  let u := t1 % 256 * refNPrime n % 256
  (t1 + u * n) / 256

/-- The Montgomery loop over the digits of a, least significant first (R183). -/
def monLoop (n b : Nat) : Nat → Nat → Nat → Nat
  | 0, _, t => t
  | digits + 1, a, t => monLoop n b digits (a / 256) (monDigit n b t (a % 256))

/-- MonProRef(a, b) (R183). -/
def monProRef (n nb a b : Nat) : Nat :=
  let t := monLoop n b nb a 0
  if n ≤ t then t - n else t

/-- Rm = R mod N, by the Barrett reducer (R184). -/
def refRm (n nb : Nat) : Nat := barrettRef n (256 ^ nb)

/-- R2 = R² mod N (R184). -/
def refR2 (n nb : Nat) : Nat := barrettRef n (refRm n nb * refRm n nb)

/-- MONTMUL by the reference datapath (R183): reduce, then multiply. -/
def montmulRef (n nb a b : Nat) : Nat := monProRef n nb (barrettRef n a) (barrettRef n b)

/-- Left-to-right square and multiply over the `bits` low bits of k, in the Montgomery domain (R185). -/
def modExpLoop (n nb xm : Nat) : Nat → Nat → Nat
  | 0, _ => refRm n nb
  | bits + 1, k =>
    let acc := modExpLoop n nb xm bits (k / 2)
    let sq := monProRef n nb acc acc
    if k % 2 = 1 then monProRef n nb sq xm else sq

/-- bitlen(k), with bitlen(0) = 0 (R185). -/
def bitLen (k : Nat) : Nat := if k = 0 then 0 else Nat.log2 k + 1

/-- ModExpRef(x, k) (R185). -/
def modExpRef (n nb x k : Nat) : Nat :=
  let xm := monProRef n nb (barrettRef n x) (refR2 n nb)
  monProRef n nb (modExpLoop n nb xm (bitLen k) k) 1

end Sys2Proof.Machine
end

