-- ==== Sys2Proof/Machine/HostProgram.lean ====
section
/-! DEFINITION. Host programs in the notation of 30_encoding.md R129, the pseudo-instructions of R130, and the run of one
against the machine (70_reset_and_hazards.md R320, R322). EMRSA has no control transfer of its own (R132): this is the host's
side, and its bus operations reach the machine by `busAccess` only. Names and labels are numbers. -/

namespace Sys2Proof.Machine

/-- One line of a host program (R129). -/
inductive HostLine where
  /-- `WR <reg>, <value>`: PSTRB = 1111. -/
  | wr (addr : BusAddr) (value : Word)
  /-- `WRB <addr>, <value>, <strb>`. -/
  | wrb (addr : BusAddr) (value : Word) (strb : Strobe)
  /-- `RD <reg> -> <name>`. -/
  | rd (addr : BusAddr) (name : Nat)
  /-- `<label>:`. -/
  | label (l : Nat)
  /-- `BNE <name>, <mask>, <value>, <label>`. -/
  | bne (name : Nat) (mask value : Word) (l : Nat)
  /-- `BEQ <name>, <mask>, <value>, <label>`. -/
  | beq (name : Nat) (mask value : Word) (l : Nat)
  deriving DecidableEq, Repr

/-- `WR <reg>, <value>` by the register's name. -/
def lineWr (r : Reg) (v : Word) : HostLine := .wr (BitVec.ofNat 17 (regOffset r)) v

/-- `CMD <mnemonic>` (R129); ENCRYPT_BLOCK, DECRYPT_BLOCK, CTR_ENC and CTR_DEC are `CMD MODEXP_PUB`, `CMD MODEXP_PRV`
and `CMD CTR` (R130). -/
def lineCmd (i : Instr) : HostLine := lineWr .cmd (encode i)

/-- `WR <reg>, <value>` if a value is given. -/
def lineOpt (r : Reg) : Option Word → List HostLine
  | none => []
  | some v => [lineWr r v]

/-- `ISSUE <mnemonic> src=<a>, dst=<b>, len=<l>`, each optional (R130). -/
def lineIssue (i : Instr) (src dst len : Option Word) : List HostLine :=
  lineOpt .src src ++ lineOpt .dst dst ++ lineOpt .len len ++ [lineCmd i]

/-- `WAIT` (R130). DESIGN CHOICE (log entry 12): R130 writes every expansion with the label `w` and the name `s`; here each
`WAIT` is given its own label and name, so that its loop goes back to itself. -/
def lineWait (l name : Nat) : List HostLine :=
  [.label l, .rd (BitVec.ofNat 17 (regOffset .status)) name, .bne name 1 0 l]

/-- `J <label>` (R130). -/
def lineJump (name l : Nat) : HostLine := .beq name 0 0 l

/-- Lane j of the word at DMEM address `base` for a `DMEM <off>` line: the byte of the list there, or none (R130). -/
def dmemLane (off : Nat) (bytes : List Byte) (base j : Nat) : Option Byte :=
  if base + j < off then none else bytes[base + j - off]?

/-- The word of a `DMEM` line: a lane out of range is 0 (R130). -/
def dmemLineWord (off : Nat) (bytes : List Byte) (base : Nat) : Word :=
  (dmemLane off bytes base 3).getD 0 ++ (dmemLane off bytes base 2).getD 0 ++
    (dmemLane off bytes base 1).getD 0 ++ (dmemLane off bytes base 0).getD 0

/-- The strobes of a `DMEM` line: bit j is 1 when lane j is in range (R130). -/
def dmemLineStrobe (off : Nat) (bytes : List Byte) (base : Nat) : Strobe :=
  BitVec.ofNat 4
    ((dmemLane off bytes base 0).isSome.toNat + (dmemLane off bytes base 1).isSome.toNat * 2 +
      (dmemLane off bytes base 2).isSome.toNat * 4 + (dmemLane off bytes base 3).isSome.toNat * 8)

/-- `DMEM <off>: <bytes>`: one WRB for each aligned word touched, in rising order (R130). DESIGN CHOICE (log entry 17): R130
is silent on a word at or above DMEM offset 0x10000, whose address 0x10000+4k has no 17-bit form; it is taken modulo 2^17. -/
def lineDmem (off : Nat) (bytes : List Byte) : List HostLine :=
  if bytes.length = 0 then []
  else
    (List.range ((off + bytes.length - 1) / 4 - off / 4 + 1)).map (fun k =>
      let base := (off / 4 + k) * 4
      .wrb (BitVec.ofNat 17 (0x10000 + base)) (dmemLineWord off bytes base) (dmemLineStrobe off bytes base))

/-- A host program at work: its lines, the line it is at, the values it has read by name, and the machine. -/
structure HostRun where
  lines : List HostLine
  pos : Nat
  names : List (Nat × Word)
  hw : State
  deriving DecidableEq, Repr

/-- The value last read under a name; 0, a DESIGN CHOICE (log entry 12), where the name was never read. -/
def nameValue (r : HostRun) (n : Nat) : Word := (r.names.lookup n).getD 0

/-- The line a label stands at. DESIGN CHOICES (log entry 12; R129 is silent on both): the first such line where the label
stands more than once, the end of the program where it stands nowhere. -/
def labelPos (lines : List HostLine) (l : Nat) : Nat := lines.findIdx (fun x => x == .label l)

/-- The word a read put on PRDATA. -/
def replyWord (s : State) : Word :=
  match s.reply with
  | some (.read w _) => w
  | _ => 0

/-- One line of the host program (R129); after the last line nothing. -/
def hostStep (r : HostRun) : HostRun :=
  match r.lines[r.pos]? with
  | none => r
  | some (.wr a v) => { r with pos := r.pos + 1, hw := busAccess ⟨true, a, v, 0b1111⟩ r.hw }
  | some (.wrb a v strb) => { r with pos := r.pos + 1, hw := busAccess ⟨true, a, v, strb⟩ r.hw }
  | some (.rd a n) =>
    let hw := busAccess ⟨false, a, 0, 0⟩ r.hw
    { r with pos := r.pos + 1, names := (n, replyWord hw) :: r.names, hw := hw }
  | some (.label _) => { r with pos := r.pos + 1 }
  | some (.bne n m v l) =>
    if nameValue r n &&& m ≠ v then { r with pos := labelPos r.lines l } else { r with pos := r.pos + 1 }
  | some (.beq n m v l) =>
    if nameValue r n &&& m = v then { r with pos := labelPos r.lines l } else { r with pos := r.pos + 1 }

/-- The engine's turn beside a host program (R320). -/
def hostEngineStep (r : HostRun) : HostRun :=
  match engineStep r.hw with
  | .next s => { r with hw := s }
  | .fault _ => r
  | .refused _ => r

/-- A run ends when the host program has executed its last line and BUSY = 0 (R322). -/
def hostRunOver (r : HostRun) : Bool := decide (r.lines.length ≤ r.pos) && !r.hw.busy

/-- A run under a schedule that says for each step whether the engine moves (true) or the host (false). -/
def hostRun : List Bool → HostRun → HostRun
  | [], r => r
  | b :: rest, r => hostRun rest (if b then hostEngineStep r else hostStep r)

end Sys2Proof.Machine
end

