-- ==== Sys2Proof/Safety.lean ====
section
/-! DEFINITION. The terms the claims use: the invariant of the machine (10_state.md R64), what a completed command leaves
(60_exceptions.md R264 to R266), what a command leaves alone, the checks of each command as its own rule lists them, and the
duties of a host program (70_reset_and_hazards.md R308 to R316). -/

namespace Sys2Proof.Machine

/-- The key state is coherent (R64): nothing without a key, and with one 1 ≤ NB ≤ MAX_BYTES and N, E, D below 256^NB. -/
def KeyCoherent (s : State) : Prop :=
  (s.keyValid = false → s.nb = 0 ∧ s.keyN = 0 ∧ s.keyE = 0 ∧ s.keyD = 0) ∧
  (s.keyValid = true →
    1 ≤ s.nb.toNat ∧ s.nb.toNat ≤ Config.maxBytes ∧
    s.keyN.toNat < 256 ^ s.nb.toNat ∧ s.keyE.toNat < 256 ^ s.nb.toNat ∧ s.keyD.toNat < 256 ^ s.nb.toNat)

/-- The result flags are coherent: ERR needs DONE and PADFMT needs a successful ECB_DEC (R64); ERR goes with a nonzero code
and codes 0xA to 0xF never appear (R43, R47). -/
def FlagCoherent (s : State) : Prop :=
  (s.err = true → s.done = true) ∧
  (s.padfmt = true → s.done = true ∧ s.err = false ∧ opField s.lcmd = 0x6) ∧
  (s.err = true ↔ s.errcode ≠ 0) ∧ s.errcode.toNat ≤ 9

/-- While a command is pending the result registers are cleared (R42, R43, R46, R47, R51). -/
def PendingCoherent (s : State) : Prop :=
  s.busy = true → s.done = false ∧ s.err = false ∧ s.padfmt = false ∧ s.errcode = 0 ∧ s.outlen = 0

/-- An open CTR stream has a key (from R235 and R151: only a successful CTR opens one, and a reset closes it). -/
def StreamCoherent (s : State) : Prop := s.ctrOpen = true → s.keyValid = true

/-- The invariant of the machine: R64 with the canonical form of DMEM. -/
def MachineInv (s : State) : Prop :=
  KeyCoherent s ∧ FlagCoherent s ∧ PendingCoherent s ∧ StreamCoherent s ∧ s.mem.wf

/-- A byte range is in DMEM (R94). -/
abbrev InDmem (a k : Nat) : Prop := k = 0 ∨ a + k ≤ 65536

/-- Two nonempty byte ranges share a byte (R96). -/
abbrev Overlap (a j b k : Nat) : Prop := 0 < j ∧ 0 < k ∧ a < b + k ∧ b < a + j

/-- The registers that no command writes: the operand registers, the latch, INT_ENABLE, the port's answer, and the model's
own fields. -/
def SameHostSide (s t : State) : Prop :=
  t.src = s.src ∧ t.dst = s.dst ∧ t.len = s.len ∧ t.lcmd = s.lcmd ∧ t.lsrc = s.lsrc ∧ t.ldst = s.ldst ∧ t.llen = s.llen ∧
  t.intEnable = s.intEnable ∧ t.reply = s.reply ∧ t.hwResets = s.hwResets ∧ t.aborted = s.aborted ∧ t.turns = s.turns

/-- The keypair and its block size (R57). -/
def SameKeys (s t : State) : Prop :=
  t.keyN = s.keyN ∧ t.keyE = s.keyE ∧ t.keyD = s.keyD ∧ t.nb = s.nb ∧ t.keyValid = s.keyValid

/-- The CTR stream: its nonce, counter and open flag (R57). -/
def SameStream (s t : State) : Prop := t.nonce = s.nonce ∧ t.ctrCount = s.ctrCount ∧ t.ctrOpen = s.ctrOpen

/-- Every byte of DMEM reads the same (and is written or unwritten as before). -/
def SameDmem (s t : State) : Prop := ∀ a, memGet t.mem a = memGet s.mem a ∧ dmemByte t a = dmemByte s a

/-- Every byte of DMEM outside the k bytes from address a reads the same. -/
def SameDmemOutside (a k : Nat) (s t : State) : Prop := ∀ x, ¬(a ≤ x ∧ x < a + k) → dmemByte t x = dmemByte s x

/-- The byte string out stands at LDST, OUTLEN is its length, and no other byte of DMEM changed (R51). -/
def OutputIs (out : List Byte) (s t : State) : Prop :=
  readBytes t s.ldst.toNat out.length = out ∧ t.outlen.toNat = out.length ∧ SameDmemOutside s.ldst.toNat out.length s t

/-- What the successful completion writes for every command (R266). -/
def CompletedOk (s t : State) : Prop :=
  t.errcode = 0 ∧ t.err = false ∧ t.done = true ∧ t.busy = false ∧ t.intStatus = s.intStatus ||| 0b0001

/-- What the error completion writes, and that nothing else changes (R264, R265). -/
def FailedWith (c : ErrorCode) (s t : State) : Prop :=
  t.errcode = errorValue c ∧ t.err = true ∧ t.done = true ∧ t.busy = false ∧ t.intStatus = s.intStatus ||| 0b0011 ∧
  t.padfmt = s.padfmt ∧ t.outlen = s.outlen ∧ SameHostSide s t ∧ SameKeys s t ∧ SameStream s t ∧ SameDmem s t

/-- How one command ends in every state: with the error its rule's checks name, or, where they name none, in a next state
with the command's own effect. -/
def EndsBy (i : Instr) (checks : State → Option ErrorCode) (effect : State → State → Prop) : Prop :=
  ∀ s,
    (∀ c, checks s = some c → ∃ t, exec i s = .next t ∧ FailedWith c s t) ∧
    (checks s = none → ∃ t, exec i s = .next t ∧ CompletedOk s t ∧ SameHostSide s t ∧ effect s t)

/-- The first two checks of a key-using command, then the rest of its list (R151, R170). -/
def keyChecks (rest : State → Option ErrorCode) (s : State) : Option ErrorCode :=
  if s.keyValid = false then some .keyNotConfigured
  else if s.keyN.toNat % 2 = 0 ∨ s.keyN.toNat < 3 then some .modUnsupported
  else rest s

/-- The last two checks of a command with an input of j bytes at LSRC and an output of at most k bytes at LDST (R94, R96):
`inPlace` says whether LDST = LSRC is allowed. -/
def rangeChecks (inPlace : Bool) (j k : Nat) (s : State) : Option ErrorCode :=
  if ¬InDmem s.lsrc.toNat j ∨ ¬InDmem s.ldst.toNat k then some .dmemRange
  else if Overlap s.lsrc.toNat j s.ldst.toNat k ∧ ¬(inPlace = true ∧ s.ldst = s.lsrc) then some .overlap
  else none

/-- The checks of SET_KEYS (R153, `fields = 3`) and SET_NONCE (R230, `fields = 1`), which take `fields` fields of LLEN bytes. -/
def loadChecks (fields : Nat) (s : State) : Option ErrorCode :=
  if s.llen.toNat = 0 ∨ 512 < s.llen.toNat then some .lenInvalid
  else if ¬InDmem s.lsrc.toNat (fields * s.llen.toNat) then some .dmemRange
  else none

/-- The checks of MODEXP_PUB and MODEXP_PRV (`blocks = 1`, R172, R173), of MONTMUL and BARRETT (`blocks = 2`, R177, R178). -/
def arithChecks (blocks : Nat) : State → Option ErrorCode :=
  keyChecks (fun s => rangeChecks true (blocks * s.nb.toNat) s.nb.toNat s)

/-- The checks of ECB_ENC (R204), K = NB - 2. -/
def ecbEncChecks : State → Option ErrorCode :=
  keyChecks (fun s =>
    if s.nb.toNat < 3 then some .blockSize
    else rangeChecks false s.llen.toNat (ceilDiv s.llen.toNat (s.nb.toNat - 2) * s.nb.toNat) s)

/-- The checks of ECB_DEC (R206), K = NB - 2. -/
def ecbDecChecks : State → Option ErrorCode :=
  keyChecks (fun s =>
    if s.nb.toNat < 3 then some .blockSize
    else if s.llen.toNat % s.nb.toNat ≠ 0 then some .lenInvalid
    else rangeChecks true s.llen.toNat (s.llen.toNat / s.nb.toNat * (s.nb.toNat - 2)) s)

/-- The checks of CTR (R232) with CONT as given. -/
def ctrChecks (cont : Bool) : State → Option ErrorCode :=
  keyChecks (fun s =>
    if cont = true ∧ s.ctrOpen = false then some .ctrAlign
    else if 4294967295 < (if cont then s.ctrCount.toNat else 0) + ceilDiv s.llen.toNat s.nb.toNat then some .ctrExhausted
    else rangeChecks true s.llen.toNat s.llen.toNat s)

/-- The cause of each error code for each command: the table of R261 with the columns of R263. -/
def ErrorCause (i : Instr) (s : State) : ErrorCode → Prop
  | .illegalCmd => False
  | .keyNotConfigured => keyUsing i = true ∧ s.keyValid = false
  | .modUnsupported => keyUsing i = true ∧ (s.keyN.toNat % 2 = 0 ∨ s.keyN.toNat < 3)
  | .blockSize => (i = .ecbEnc ∨ i = .ecbDec) ∧ s.nb.toNat < 3
  | .lenInvalid =>
    ((i = .setKeys ∨ i = .setNonce) ∧ (s.llen.toNat = 0 ∨ 512 < s.llen.toNat)) ∨
      (i = .ecbDec ∧ s.llen.toNat % s.nb.toNat ≠ 0)
  | .ctrAlign => i = .ctrCont ∧ s.ctrOpen = false
  | .ctrExhausted =>
    (i = .ctr ∧ 4294967295 < ceilDiv s.llen.toNat s.nb.toNat) ∨
      (i = .ctrCont ∧ 4294967295 < s.ctrCount.toNat + ceilDiv s.llen.toNat s.nb.toNat)
  | .dmemRange => ¬InDmem s.lsrc.toNat (inLen i s) ∨ ¬InDmem s.ldst.toNat (outMax i s)
  | .overlap =>
    Overlap s.lsrc.toNat (inLen i s) s.ldst.toNat (outMax i s) ∧ ¬(i ≠ .ecbEnc ∧ s.ldst = s.lsrc)

/-- Every register and every piece of key and stream state has its reset value (R301, both columns but DMEM). -/
def AtResetValues (s : State) : Prop :=
  s.src = 0 ∧ s.dst = 0 ∧ s.len = 0 ∧ s.lcmd = 0 ∧ s.lsrc = 0 ∧ s.ldst = 0 ∧ s.llen = 0 ∧
  s.busy = false ∧ s.done = false ∧ s.err = false ∧ s.padfmt = false ∧ s.errcode = 0 ∧ s.outlen = 0 ∧
  s.intStatus = 0 ∧ s.intEnable = 0 ∧ irq s = false ∧
  s.keyN = 0 ∧ s.keyE = 0 ∧ s.keyD = 0 ∧ s.nb = 0 ∧ s.keyValid = false ∧
  s.nonce = 0 ∧ s.ctrCount = 0 ∧ s.ctrOpen = false

/-- The port answered SLVERR (R89). -/
def answeredSlverr (s : State) : Bool :=
  match s.reply with
  | some (.read _ e) => e
  | some (.write e) => e
  | none => false

/-- A CTRL write that performs the soft reset (R303). -/
def isSoftReset (x : Transfer) : Bool :=
  x.write && x.addr == 0x008 && x.strobe == 0b1111 && x.data.getLsbD 0

/-- An INT_STATUS write that clears bit i (R33, R54). -/
def clearsEvent (i : Nat) (x : Transfer) : Bool :=
  x.write && x.addr == 0x030 && x.strobe == 0b1111 && x.data.getLsbD i

/-- The host transfer of the coming step, if there is one. -/
def nextTransfer (s : State) : Option Transfer :=
  match s.turns with
  | .host x :: _ => some x
  | .hostAndEngine x :: _ => some x
  | _ => none

/-- The coming step is a reset, hard or soft. -/
def resetNext (s : State) : Bool :=
  s.turns.head? == some .hardReset || (nextTransfer s).any isSoftReset

/-- The coming step is a W1C write that clears INT_STATUS bit i. -/
def clearNext (i : Nat) (s : State) : Bool := (nextTransfer s).any (clearsEvent i)

/-- The keypair is a valid RSA key for the primes p and q (41_modexp_arith.md R176). -/
def RsaKey (p q : Nat) (s : State) : Prop :=
  p.Prime ∧ q.Prime ∧ p ≠ q ∧ p ≠ 2 ∧ q ≠ 2 ∧ s.keyN.toNat = p * q ∧
  s.keyE.toNat * s.keyD.toNat % Nat.lcm (p - 1) (q - 1) = 1

/-- The host's duty for ECB (70_reset_and_hazards.md R316, 42_ecb.md R202): every frame is below N. -/
def FramesFit (s : State) : Prop := (s.nb.toNat - 1) * 256 ^ (s.nb.toNat - 2) ≤ s.keyN.toNat

/-- The host's choice of a nonce with no unmasked block (70_reset_and_hazards.md R312). -/
def NonceClear (blocks : Nat) (s : State) : Prop := 2 ≤ s.nonce.toNat ∧ s.nonce.toNat + blocks ≤ s.keyN.toNat

/-- The host's duty of R308 and R309: no window access and no CMD write while a command is pending. -/
def WaitsForCompletion (x : Transfer) (s : State) : Prop :=
  s.busy = true → x.addr.toNat < 0x10000 ∧ ¬(x.write = true ∧ x.addr = 0x00C)

end Sys2Proof.Machine
end

