-- ==== Sys2Proof/Certificates/Slice0/Obligations.lean ====
section
/-! DEFINITION. The statements for the provers, each from a numbered rule of spec/; OBLIGATIONS.json lists them. -/

open Sys2Proof Sys2Proof.Machine

/-! ### Encoding and decoding -/

/-- R122: the eleven words of the opcode map decode to their commands, and the OP values 0xA to 0xF to none. -/
def Obligations.DecodeOpcodeMapWords : Prop :=
  decode 0x00000000 = .command .nop ∧ decode 0x00000001 = .command .setKeys ∧
  decode 0x00000002 = .command .setNonce ∧ decode 0x00000003 = .command .modexpPub ∧
  decode 0x00000004 = .command .modexpPrv ∧ decode 0x00000005 = .command .ecbEnc ∧
  decode 0x00000006 = .command .ecbDec ∧ decode 0x00000007 = .command .ctr ∧
  decode 0x00000017 = .command .ctrCont ∧ decode 0x00000008 = .command .montmul ∧
  decode 0x00000009 = .command .barrett ∧
  ∀ op ∈ [0x0000000A, 0x0000000B, 0x0000000C, 0x0000000D, 0x0000000E, 0x0000000F],
    decode op = .illegal .reservedOp

/-- R126 and R127: decode and encode agree on all 2^32 words, and a word is illegal exactly in the three cases of R125,
read off its bits. -/
def Obligations.DecodeIsTotalAndAgreesWithEncode : Prop :=
  ∀ w : Word,
    (∀ i, decode w = .command i ↔ w = encode i) ∧
    ((∃ why, decode w = .illegal why) ↔
      w.toNat / 32 ≠ 0 ∨ (w.toNat / 16 % 2 = 1 ∧ w.toNat % 16 ≠ 7) ∨ 10 ≤ w.toNat % 16)

/-- R125: a word is illegal in its three cases; such a word written to CMD while idle is latched, makes BUSY = 1, and
completes with ILLEGAL_CMD and no other effect. Every other word is a command. -/
def Obligations.IllegalWordCompletesWithIllegalCmd : Prop :=
  let illegal := fun (w : Word) =>
    w.toNat / 32 ≠ 0 ∨ (w.toNat / 16 % 2 = 1 ∧ w.toNat % 16 ≠ 7) ∨ 10 ≤ w.toNat % 16
  (∀ (s : State) (w : Word), s.busy = false → illegal w →
    let u := busAccess ⟨true, 0x0000C, w, 0b1111⟩ s
    u.lcmd = w ∧ u.busy = true ∧ ∃ t, engineStep u = .next t ∧ FailedWith .illegalCmd u t) ∧
  ∀ w, ¬illegal w → ∃ i, decode w = .command i

/-! ### The step -/

/-- R267 EngineStep: when a pending word decodes to command i, the engine's step is exec of i, whether the engine's turn is
listed or no turn is left. -/
def Obligations.StepRunsDecodedCommand : Prop :=
  ∀ (s : State) (i : Instr), s.busy = true → decode s.lcmd = .command i →
    (s.turns = [] → step s = exec i s) ∧
    (∀ rest, s.turns = .engine :: rest → step s = exec i { s with turns := rest })

/-- R121, R267: a command word placed for the next step runs as that command, with the operands latched from SRC, DST, LEN. -/
def Obligations.PlacedWordRunsNext : Prop :=
  ∀ (s : State) (i : Instr),
    step (s.withFetchWord 32 (encode i).toNat) =
      exec i { s with
        lcmd := encode i, lsrc := s.src, ldst := s.dst, llen := s.len,
        busy := true, done := false, err := false, padfmt := false, errcode := 0, outlen := 0 }

/-- R306, R320, R300, R54: what each turn does, and that an idle machine with no turn left stays as it is. -/
def Obligations.StepTakesTheNextTurn : Prop :=
  ∀ (s : State) (rest : List Turn),
    let p : State := { s with turns := rest }
    (s.turns = [] → s.busy = false → step s = .next s) ∧
    (s.turns = .engine :: rest → s.busy = false → step s = .next p) ∧
    (s.turns = .hardReset :: rest → step s = .next (hardReset p)) ∧
    ∀ x,
      (s.turns = .host x :: rest → step s = .next (busAccess x p)) ∧
      (s.turns = .hostAndEngine x :: rest → s.busy = false → step s = .next (busAccess x p)) ∧
      (s.turns = .hostAndEngine x :: rest → s.busy = true → step s = engineStep (busAccess x p))

/-! ### Reset -/

/-- R301, R302: after either reset every register, the keys and the stream have their reset values, irq is 0, and after a
hardware reset every DMEM byte is unwritten. -/
def Obligations.ResetsLeaveResetValues : Prop :=
  AtResetValues State.reset ∧ (∀ a, memGet State.reset.mem a = none) ∧
  ∀ s, AtResetValues (softReset s) ∧ AtResetValues (hardReset s) ∧ ∀ a, memGet (hardReset s).mem a = none

/-- R303, R304: a CTRL write with bit 0 set resets everything in its bus cycle with an OKAY response; DMEM is preserved,
except that the output range of a pending command whose checks pass becomes unwritten; with bit 0 clear nothing happens. -/
def Obligations.SoftResetPreservesDmemButAbortedOutput : Prop :=
  ∀ (s : State) (w : Word),
    let t := busAccess ⟨true, 0x00008, w, 0b1111⟩ s
    (w.getLsbD 0 = false → t = { s with reply := some (.write false) }) ∧
    (w.getLsbD 0 = true →
      AtResetValues t ∧ t.reply = some (.write false) ∧ t.turns = s.turns ∧
      (s.busy = false → SameDmem s t) ∧
      (s.busy = true → ∀ why, decode s.lcmd = .illegal why → SameDmem s t) ∧
      ∀ i, s.busy = true → decode s.lcmd = .command i →
        (∀ c, check i s = some c → SameDmem s t) ∧
        (check i s = none →
          (∀ a, s.ldst.toNat ≤ a → a < s.ldst.toNat + outMax i s → memGet t.mem a = none) ∧
          SameDmemOutside s.ldst.toNat (outMax i s) s t))

/-! ### Registers and the bus -/

/-- R32, R36 to R56: what every register reads as, with an OKAY response, no other change, and the strobes ignored. -/
def Obligations.RegisterReadValues : Prop :=
  ∀ (s : State) (d : Word) (strb : Strobe),
    let value := fun (a : BusAddr) (v : Word) =>
      busAccess ⟨false, a, d, strb⟩ s = { s with reply := some (.read v false) }
    value 0x000 0x52534145 ∧ value 0x004 0x00010000 ∧ value 0x008 0 ∧ value 0x00C s.lcmd ∧
    value 0x014 (BitVec.ofNat 32 s.errcode.toNat) ∧ value 0x018 s.src ∧ value 0x01C s.dst ∧ value 0x020 s.len ∧
    value 0x024 s.outlen ∧ value 0x028 s.ctrCount ∧ value 0x02C (BitVec.ofNat 32 s.nb.toNat) ∧
    value 0x030 (BitVec.ofNat 32 s.intStatus.toNat) ∧ value 0x034 (BitVec.ofNat 32 s.intEnable.toNat) ∧
    value 0x038 0x02100200 ∧
    ∃ v : Word, value 0x010 v ∧ v.toNat < 64 ∧ v.getLsbD 0 = s.busy ∧ v.getLsbD 1 = s.done ∧ v.getLsbD 2 = s.err ∧
      v.getLsbD 3 = s.keyValid ∧ v.getLsbD 4 = s.ctrOpen ∧ v.getLsbD 5 = s.padfmt

/-- R33, R35, R48 to R50, R54, R55: full-strobe writes by access kind, always with an OKAY response: a read-only register
ignores them, SRC, DST and LEN take the word, INT_ENABLE its four low bits, and INT_STATUS clears each bit written as 1. -/
def Obligations.RegisterWritesByAccessKind : Prop :=
  ∀ (s : State) (w : Word),
    let wr := fun (a : BusAddr) => busAccess ⟨true, a, w, 0b1111⟩ s
    let ok : Option Reply := some (.write false)
    (∀ a ∈ ([0x000, 0x004, 0x010, 0x014, 0x024, 0x028, 0x02C, 0x038] : List BusAddr), wr a = { s with reply := ok }) ∧
    wr 0x018 = { s with src := w, reply := ok } ∧ wr 0x01C = { s with dst := w, reply := ok } ∧
    wr 0x020 = { s with len := w, reply := ok } ∧
    wr 0x034 = { s with intEnable := BitVec.ofNat 4 w.toNat, reply := ok } ∧
    wr 0x030 = { s with intStatus := (wr 0x030).intStatus, reply := ok } ∧
    ∀ i < 4, (wr 0x030).intStatus.getLsbD i = (s.intStatus.getLsbD i && !w.getLsbD i)

/-- R87, R88, R89: SLVERR is the answer exactly of a misaligned access and of a register-block write with partial strobes, and such
an access changes nothing else; a misaligned read returns 0. That R87 decides partial strobes at the reserved offsets 0x03C to
0xFFC too, where R34 and R106 say OKAY, is the model's reading (DEDUCED, log entry 7). -/
def Obligations.SlverrExactlyForMisalignedOrPartial : Prop :=
  ∀ (x : Transfer) (s : State),
    let t := busAccess x s
    (answeredSlverr t = true ↔
      x.addr.toNat % 4 ≠ 0 ∨ (x.write = true ∧ x.addr.toNat < 0x1000 ∧ x.strobe ≠ 0b1111)) ∧
    (answeredSlverr t = true → t = { s with reply := t.reply }) ∧
    (x.addr.toNat % 4 ≠ 0 → x.write = false → t.reply = some (.read 0 true))

/-- R106, R34, R82: the reserved region and the reserved register offsets read 0 and ignore (full-strobe) writes, with an OKAY
response and no event. -/
def Obligations.ReservedAddressesReadZeroIgnoreWrites : Prop :=
  ∀ (x : Transfer) (s : State), x.addr.toNat % 4 = 0 → 0x03C ≤ x.addr.toNat → x.addr.toNat < 0x10000 →
    (x.addr.toNat < 0x1000 → x.write = true → x.strobe = 0b1111) →
    busAccess x s = { s with reply := some (if x.write then .write false else .read 0 false) }

/-- R83 to R85: the DMEM window while idle. A read gives byte 4k + i on lane i; a write stores lane i at byte 4k + i where
strobe i is set and changes nothing else. -/
def Obligations.IdleWindowLanes : Prop :=
  ∀ (s : State) (k : Nat) (d : Word) (strb : Strobe), s.busy = false → k < 16384 →
    let a := BitVec.ofNat 17 (0x10000 + 4 * k)
    let r := busAccess ⟨false, a, d, strb⟩ s
    let t := busAccess ⟨true, a, d, strb⟩ s
    (∃ v : Word, r = { s with reply := some (.read v false) } ∧
      ∀ i < 4, v.extractLsb' (8 * i) 8 = dmemByte s (4 * k + i)) ∧
    t = { s with mem := t.mem, reply := some (.write false) } ∧
    ∀ b, dmemByte t b =
      if 4 * k ≤ b ∧ b < 4 * k + 4 ∧ strb.getLsbD (b - 4 * k) = true then d.extractLsb' (8 * (b - 4 * k)) 8
      else dmemByte s b

/-- R130: on an idle machine the lines of `DMEM <off>: <bytes>` store the bytes at off and change nothing else of DMEM, the
host moving alone. -/
def Obligations.DmemLineStoresItsBytes : Prop :=
  ∀ (s : State) (off : Nat) (bytes : List Byte) (h : off + bytes.length ≤ 65536), s.busy = false →
    let lines := lineDmem off bytes
    let r := hostRun (List.replicate lines.length false) ⟨lines, 0, [], s⟩
    hostRunOver r = true ∧
    ∀ a, dmemByte r.hw a = if _ : off ≤ a ∧ a < off + bytes.length then bytes[a - off]'(by omega) else dmemByte s a

/-- R91: the word a host stores through the window, read as a 4-byte big-endian field, has its bytes in the opposite order. -/
def Obligations.WindowWordReadsByteReversed : Prop :=
  ∀ (s : State) (k : Nat) (d : Word), s.busy = false → k < 16384 →
    be (readBytes (busAccess ⟨true, BitVec.ofNat 17 (0x10000 + 4 * k), d, 0b1111⟩ s) (4 * k) 4) =
      (d.toNat % 256) * 2 ^ 24 + (d.toNat / 2 ^ 8 % 256) * 2 ^ 16 + (d.toNat / 2 ^ 16 % 256) * 2 ^ 8 + d.toNat / 2 ^ 24

/-- R86: an aligned window access while a command is pending changes no byte, reads 0, answers OKAY and sets ACCESS_EV. -/
def Obligations.BusyWindowAccessIsIgnored : Prop :=
  ∀ (x : Transfer) (s : State), s.busy = true → x.addr.toNat % 4 = 0 → 0x10000 ≤ x.addr.toNat →
    busAccess x s =
      { s with
        intStatus := s.intStatus ||| 0b1000
        reply := some (if x.write then .write false else .read 0 false) }

/-- R267: a CMD write while idle latches word and operands, sets BUSY and clears the results, whatever the word; the engine's
step then completes it. -/
def Obligations.CmdWriteStartsAndEngineCompletes : Prop :=
  ∀ (s : State) (w : Word), s.busy = false →
    let u := busAccess ⟨true, 0x0000C, w, 0b1111⟩ s
    u = { s with
      lcmd := w, lsrc := s.src, ldst := s.dst, llen := s.len,
      busy := true, done := false, err := false, padfmt := false, errcode := 0, outlen := 0,
      reply := some (.write false) } ∧
    ∃ t, engineStep u = .next t ∧ t.busy = false ∧ t.done = true

/-- R268: a CMD write while a command is pending is lost, sets OVERRUN_EV and answers OKAY. -/
def Obligations.CmdWriteWhileBusyIsOverrun : Prop :=
  ∀ (s : State) (w : Word), s.busy = true →
    busAccess ⟨true, 0x0000C, w, 0b1111⟩ s =
      { s with intStatus := s.intStatus ||| 0b0100, reply := some (.write false) }

/-- R62, R86, R102, R269: no transfer but a soft reset changes a pending command, its operands, DMEM, the keys, the stream or
the result registers. -/
def Obligations.PendingCommandIsUndisturbed : Prop :=
  ∀ (x : Transfer) (s : State), s.busy = true → isSoftReset x = false →
    let t := busAccess x s
    t.busy = true ∧ t.lcmd = s.lcmd ∧ t.lsrc = s.lsrc ∧ t.ldst = s.ldst ∧ t.llen = s.llen ∧ t.mem = s.mem ∧
    SameKeys s t ∧ SameStream s t ∧ SameDmem s t ∧
    t.done = s.done ∧ t.err = s.err ∧ t.padfmt = s.padfmt ∧ t.errcode = s.errcode ∧ t.outlen = s.outlen

/-- R97, R33: a read changes nothing but the port's answer, and ACCESS_EV where it reads the window while busy; read again it
gives the same answer. -/
def Obligations.ReadsHaveNoSideEffect : Prop :=
  ∀ (x : Transfer) (s : State), x.write = false →
    let t := busAccess x s
    t = { s with
      reply := t.reply
      intStatus :=
        if s.busy = true ∧ x.addr.toNat % 4 = 0 ∧ 0x10000 ≤ x.addr.toNat then s.intStatus ||| 0b1000 else s.intStatus } ∧
    (busAccess x t).reply = t.reply

/-- R272: irq is the OR of the enabled events, is 0 after reset, and goes from 1 to 0 only by a reset or a host write of
INT_STATUS or INT_ENABLE. -/
def Obligations.IrqFollowsEnabledEvents : Prop :=
  (∀ s, irq s = true ↔ ∃ i, i < 4 ∧ s.intStatus.getLsbD i = true ∧ s.intEnable.getLsbD i = true) ∧
  irq State.reset = false ∧
  ∀ s t, step s = .next t → irq s = true → irq t = false →
    resetNext s = true ∨
      ∃ x, nextTransfer s = some x ∧ x.write = true ∧ (x.addr = 0x030 ∨ x.addr = 0x034)

/-- R54: an event bit stays set until the host writes 1 to it or a reset occurs, and a completion's DONE_EV is set although
the host clears it in the same cycle. -/
def Obligations.EventsStayUntilCleared : Prop :=
  (∀ s t i, step s = .next t → s.intStatus.getLsbD i = true → resetNext s = false → clearNext i s = false →
    t.intStatus.getLsbD i = true) ∧
  ∀ s t x rest, s.busy = true → s.turns = .hostAndEngine x :: rest → isSoftReset x = false → step s = .next t →
    t.intStatus.getLsbD 0 = true

/-- R308, R309: a host that neither touches the window nor writes CMD while a command is pending raises neither OVERRUN_EV nor
ACCESS_EV. -/
def Obligations.WaitingHostRaisesNoEvents : Prop :=
  ∀ (x : Transfer) (s : State), WaitsForCompletion x s →
    ((busAccess x s).intStatus.getLsbD 2 = true → s.intStatus.getLsbD 2 = true) ∧
    ((busAccess x s).intStatus.getLsbD 3 = true → s.intStatus.getLsbD 3 = true)

/-- R157: the port's answer to any access is the same whatever N, E, D and NONCE hold. -/
def Obligations.KeyRegistersAreNotReadable : Prop :=
  ∀ (x : Transfer) (s : State) (n e d c : BigReg),
    (busAccess x { s with keyN := n, keyE := e, keyD := d, nonce := c }).reply = (busAccess x s).reply

/-! ### The commands, rule by rule -/

/-- R152: NOP completes in every state and changes nothing but the completion; written while busy it is lost. -/
def Obligations.NopOnlyCompletes : Prop :=
  EndsBy .nop (fun _ => none)
    (fun s t => t.outlen = 0 ∧ t.padfmt = s.padfmt ∧ SameKeys s t ∧ SameStream s t ∧ SameDmem s t) ∧
  ∀ s, s.busy = true →
    busAccess ⟨true, 0x0000C, encode .nop, 0b1111⟩ s =
      { s with intStatus := s.intStatus ||| 0b0100, reply := some (.write false) }

/-- R153, R156: SET_KEYS installs the three LLEN-byte fields and the block size and ends the stream; its only checks are on
LLEN and the range; nothing else changes. -/
def Obligations.SetKeysInstallsKeypair : Prop :=
  EndsBy .setKeys (loadChecks 3) (fun s t =>
    let l := s.llen.toNat
    t.keyN.toNat = be (readBytes s s.lsrc.toNat l) ∧
    t.keyE.toNat = be (readBytes s (s.lsrc.toNat + l) l) ∧
    t.keyD.toNat = be (readBytes s (s.lsrc.toNat + 2 * l) l) ∧
    t.nb.toNat = l ∧ t.keyValid = true ∧ t.ctrCount = 0 ∧ t.ctrOpen = false ∧ t.outlen = 0 ∧
    t.nonce = s.nonce ∧ t.padfmt = s.padfmt ∧ SameDmem s t)

/-- R230: SET_NONCE loads the nonce and ends the stream; nothing else changes. The nonce is 0 after reset and SET_KEYS
keeps it. -/
def Obligations.SetNonceLoadsNonce : Prop :=
  EndsBy .setNonce (loadChecks 1) (fun s t =>
    t.nonce.toNat = be (readBytes s s.lsrc.toNat s.llen.toNat) ∧
    t.ctrCount = 0 ∧ t.ctrOpen = false ∧ t.outlen = 0 ∧ SameKeys s t ∧ t.padfmt = s.padfmt ∧ SameDmem s t) ∧
  State.reset.nonce = 0 ∧ ∀ s t, exec .setKeys s = .next t → t.nonce = s.nonce

/-- R172: MODEXP_PUB stores x^E mod N as NB bytes; nothing else changes. -/
def Obligations.ModexpPubStoresPowerE : Prop :=
  EndsBy .modexpPub (arithChecks 1) (fun s t =>
    OutputIs (i2be (be (readBytes s s.lsrc.toNat s.nb.toNat) ^ s.keyE.toNat % s.keyN.toNat) s.nb.toNat) s t ∧
    SameKeys s t ∧ SameStream s t ∧ t.padfmt = s.padfmt)

/-- R173: MODEXP_PRV stores y^D mod N as NB bytes; nothing else changes. -/
def Obligations.ModexpPrvStoresPowerD : Prop :=
  EndsBy .modexpPrv (arithChecks 1) (fun s t =>
    OutputIs (i2be (be (readBytes s s.lsrc.toNat s.nb.toNat) ^ s.keyD.toNat % s.keyN.toNat) s.nb.toNat) s t ∧
    SameKeys s t ∧ SameStream s t ∧ t.padfmt = s.padfmt)

/-- R177: MONTMUL stores the r below N with r * R ≡ a * b (mod N), R = 2^(8*NB); nothing else changes. -/
def Obligations.MontmulStoresMontgomeryProduct : Prop :=
  EndsBy .montmul (arithChecks 2) (fun s t =>
    (∃ r, r < s.keyN.toNat ∧
      r * 2 ^ (8 * s.nb.toNat) % s.keyN.toNat =
        be (readBytes s s.lsrc.toNat s.nb.toNat) * be (readBytes s (s.lsrc.toNat + s.nb.toNat) s.nb.toNat) %
          s.keyN.toNat ∧
      OutputIs (i2be r s.nb.toNat) s t) ∧
    SameKeys s t ∧ SameStream s t ∧ t.padfmt = s.padfmt)

/-- R178: BARRETT stores x mod N of the 2*NB-byte x as NB bytes; nothing else changes. -/
def Obligations.BarrettStoresResidue : Prop :=
  EndsBy .barrett (arithChecks 2) (fun s t =>
    OutputIs (i2be (be (readBytes s s.lsrc.toNat (2 * s.nb.toNat)) % s.keyN.toNat) s.nb.toNat) s t ∧
    SameKeys s t ∧ SameStream s t ∧ t.padfmt = s.padfmt)

/-- R204, R205: ECB_ENC stores, for each chunk of K = NB - 2 bytes, its frame raised to E as one NB-byte block; nothing else
changes. -/
def Obligations.EcbEncStoresEncryptedFrames : Prop :=
  EndsBy .ecbEnc ecbEncChecks (fun s t =>
    let nb := s.nb.toNat
    let k := nb - 2
    let chunk := fun j =>
      slice (readBytes s s.lsrc.toNat s.llen.toNat) (j * k) (min ((j + 1) * k) s.llen.toNat)
    let framed := fun j => i2be (k - (chunk j).length) 2 ++ zeros (k - (chunk j).length) ++ chunk j
    OutputIs (concatBlocks (ceilDiv s.llen.toNat k)
      (fun j => i2be (be (framed j) ^ s.keyE.toNat % s.keyN.toNat) nb)) s t ∧
    t.outlen.toNat = ceilDiv s.llen.toNat k * nb ∧
    SameKeys s t ∧ SameStream s t ∧ t.padfmt = s.padfmt)

/-- R206, R207: ECB_DEC raises each NB-byte block to D and stores the bytes after its pad field and filler, none for a
malformed field; PADFMT says whether one was malformed; nothing else changes. -/
def Obligations.EcbDecStoresUnframedPieces : Prop :=
  EndsBy .ecbDec ecbDecChecks (fun s t =>
    let nb := s.nb.toNat
    let k := nb - 2
    let n := s.llen.toNat / nb
    let block := fun j => slice (readBytes s s.lsrc.toNat s.llen.toNat) (j * nb) ((j + 1) * nb)
    let buffer := fun j => i2be (be (block j) ^ s.keyD.toNat % s.keyN.toNat) nb
    let field := fun j => be ((buffer j).take 2)
    OutputIs (concatBlocks n (fun j => if field j ≤ k then (buffer j).drop (2 + field j) else [])) s t ∧
    (t.padfmt = true ↔ ∃ j, j < n ∧ k < field j) ∧
    SameKeys s t ∧ SameStream s t)

/-- R232 to R234: CTR XORs byte p of its input with byte p mod NB of keystream block base + p / NB, base being 0 for CONT = 0
and CTR_COUNT for CONT = 1, counts its blocks, and says whether the stream may go on; nothing else changes. NB ≥ 1 is part of
the invariant (R64). -/
def Obligations.CtrXorsKeystreamAndCounts : Prop :=
  let effect := fun (base : State → Nat) (s t : State) =>
    0 < s.nb.toNat →
      (∀ p < s.llen.toNat,
        dmemByte t (s.ldst.toNat + p) =
          dmemByte s (s.lsrc.toNat + p) ^^^
            (i2be ((s.nonce.toNat + (base s + p / s.nb.toNat)) ^ s.keyE.toNat % s.keyN.toNat) s.nb.toNat).getD
              (p % s.nb.toNat) 0) ∧
      SameDmemOutside s.ldst.toNat s.llen.toNat s t ∧ t.outlen = s.llen ∧
      t.ctrCount.toNat = base s + ceilDiv s.llen.toNat s.nb.toNat ∧
      (t.ctrOpen = true ↔ s.llen.toNat % s.nb.toNat = 0) ∧
      t.nonce = s.nonce ∧ SameKeys s t ∧ t.padfmt = s.padfmt
  EndsBy .ctr (ctrChecks false) (effect (fun _ => 0)) ∧
  EndsBy .ctrCont (ctrChecks true) (effect (fun s => s.ctrCount.toNat))

/-! ### The whole machine -/

/-- R41, R42, R54, R317: every command, in every state, ends in a next state with BUSY = 0, DONE = 1 and DONE_EV set, and
every step of the machine answers a next state. -/
def Obligations.EveryCommandCompletes : Prop :=
  (∀ (i : Instr) (s : State),
    ∃ t, exec i s = .next t ∧ t.busy = false ∧ t.done = true ∧ t.intStatus.getLsbD 0 = true) ∧
  ∀ s, ∃ t, step s = .next t

/-- R264: a command that ends with a nonzero code changes nothing but what the error completion lists, as a meaning and as
the engine's step on any pending word, legal or not. -/
def Obligations.FailedCommandMutatesNothing : Prop :=
  (∀ (i : Instr) (s t : State), exec i s = .next t → t.errcode ≠ 0 → ∃ c, FailedWith c s t) ∧
  ∀ s t, s.busy = true → engineStep s = .next t → t.errcode ≠ 0 → ∃ c, FailedWith c s t

/-- The frame of all commands: none writes the host's registers, the latch or INT_ENABLE; only SET_KEYS the keys, only
SET_NONCE the nonce, only CTR, SET_KEYS and SET_NONCE the counter and CTR_OPEN, only ECB_DEC PADFMT; and no byte of DMEM
changes outside the OUTLEN bytes at LDST that a successful command stores (none for NOP, SET_KEYS, SET_NONCE). -/
def Obligations.CommandFrame : Prop :=
  ∀ (i : Instr) (s t : State), exec i s = .next t →
    SameHostSide s t ∧
    (i ≠ .setKeys → SameKeys s t) ∧
    (i ≠ .setNonce → t.nonce = s.nonce) ∧
    (i ≠ .setKeys → i ≠ .setNonce → i ≠ .ctr → i ≠ .ctrCont → t.ctrCount = s.ctrCount ∧ t.ctrOpen = s.ctrOpen) ∧
    (i ≠ .ecbDec → t.padfmt = s.padfmt) ∧
    (i = .nop ∨ i = .setKeys ∨ i = .setNonce → SameDmem s t) ∧
    (t.errcode ≠ 0 → SameDmem s t) ∧
    SameDmemOutside s.ldst.toNat t.outlen.toNat s t

/-- R262, R263: the code a command ends with is the one of lowest value whose cause holds for that command, and it ends
without error exactly when no cause holds; a pending illegal word ends with ILLEGAL_CMD, the lowest, whatever else holds. -/
def Obligations.FirstErrorInPriorityOrder : Prop :=
  (∀ (i : Instr) (s : State), ∃ t, exec i s = .next t ∧
    (∀ c, t.errcode = errorValue c ↔
      ErrorCause i s c ∧ ∀ d, (errorValue d).toNat < (errorValue c).toNat → ¬ErrorCause i s d) ∧
    (t.errcode = 0 ↔ ∀ c, ¬ErrorCause i s c)) ∧
  ∀ s why, s.busy = true → decode s.lcmd = .illegal why →
    ∃ t, engineStep s = .next t ∧ t.errcode = errorValue .illegalCmd

/-- R158: the keypair changes in a step only by a reset or by the successful completion of SET_KEYS. -/
def Obligations.KeysChangeOnlyBySetKeysOrReset : Prop :=
  ∀ s t, step s = .next t → ¬SameKeys s t →
    resetNext s = true ∨ (s.busy = true ∧ decode s.lcmd = .command .setKeys ∧ t.done = true ∧ t.errcode = 0)

/-- R52, R235, R61: nonce, counter and CTR_OPEN change in a step only by a reset or by the successful completion of CTR,
SET_KEYS or SET_NONCE, and the nonce only by a reset or SET_NONCE. -/
def Obligations.StreamChangesOnlyByItsCommandsOrReset : Prop :=
  ∀ s t, step s = .next t → resetNext s = false →
    (¬SameStream s t →
      s.busy = true ∧ t.done = true ∧ t.errcode = 0 ∧
      ∃ i ∈ [Instr.ctr, .ctrCont, .setKeys, .setNonce], decode s.lcmd = .command i) ∧
    (t.nonce ≠ s.nonce → decode s.lcmd = .command .setNonce)

/-- R64 and the canonical form of DMEM: every step keeps the invariant. -/
def Obligations.StepKeepsInvariant : Prop := ∀ s t, MachineInv s → step s = .next t → MachineInv t

/-- The invariant holds at reset (R64, R301). -/
def Obligations.ResetMeetsInvariant : Prop := MachineInv State.reset

/-- R64: the invariant holds in every state reached from reset, for every sequence of turns of host and engine, and where
BUSY = 0 no command is pending: an engine turn then changes nothing. Beside R64's clauses the invariant has the model's own:
an open stream has a key (from R235 and R151), the results of a pending command are cleared (R267), codes go with ERR
(R43, R47), and DMEM's list is in canonical form. The turn list is the model's input (log entry 4). -/
def Obligations.InvariantInEveryReachableState : Prop :=
  ∀ (turns : List Turn) (k : Nat) (t : State),
    Host.Core.run core k { State.reset with turns := turns } = .next t →
    MachineInv t ∧ (t.busy = false → engineStep t = .next t)

/-! ### Arithmetic, framing and the datapath -/

/-- R19: BE is the big-endian sum, and I2BE(v, k) is the one k-byte string with BE = v. -/
def Obligations.BigEndianConversions : Prop :=
  (∀ s : List Byte, be s = ∑ i ∈ Finset.range s.length, (s.getD i 0).toNat * 256 ^ (s.length - 1 - i)) ∧
  ∀ v k, v < 256 ^ k →
    (i2be v k).length = k ∧ be (i2be v k) = v ∧ ∀ s : List Byte, s.length = k → be s = v → s = i2be v k

/-- R201, R203: a frame is NB bytes long and unframing it gives the chunk back with no malformed field; a buffer whose field
exceeds K gives no bytes. -/
def Obligations.UnframeUndoesFrame : Prop :=
  ∀ nb, 3 ≤ nb → nb ≤ 512 →
    (∀ c : List Byte, c.length ≤ nb - 2 → (frame nb c).length = nb ∧ unframe nb (frame nb c) = (c, false)) ∧
    ∀ b : List Byte, b.length = nb →
      (be (b.take 2) ≤ nb - 2 → unframe nb b = (b.drop (2 + be (b.take 2)), false)) ∧
      (nb - 2 < be (b.take 2) → unframe nb b = ([], true))

/-- R202: the value of a frame and its bound, so that a key with N ≥ (NB-1)*256^(NB-2) takes every frame below N. -/
def Obligations.FrameValueAndBound : Prop :=
  ∀ (nb : Nat) (c : List Byte), 3 ≤ nb → nb ≤ 512 → c.length ≤ nb - 2 →
    be (frame nb c) = (nb - 2 - c.length) * 256 ^ (nb - 2) + be c ∧
    be (frame nb c) < (nb - 1) * 256 ^ (nb - 2) ∧
    ∀ s : State, s.nb.toNat = nb → FramesFit s → be (frame nb c) < s.keyN.toNat

/-- R186, R187: the reference Barrett reducer computes x mod N for every x. -/
def Obligations.ReferenceBarrettIsExact : Prop := ∀ n x, 3 ≤ n → barrettRef n x = x % n

/-- R183: the reference Montgomery multiplier computes the Montgomery product, and MONTMUL by the datapath is R177's result
for every a and b. -/
def Obligations.ReferenceMontgomeryIsExact : Prop :=
  ∀ n nb a b, n % 2 = 1 → 3 ≤ n → n < 256 ^ nb →
    (a < n → b < n → monProRef n nb a b = montProduct n nb a b) ∧ montmulRef n nb a b = montProduct n nb a b

/-- R185, R171, R180: the reference exponentiation computes x^k mod N for every x and k. -/
def Obligations.ReferenceExponentiationIsExact : Prop :=
  ∀ n nb x k, n % 2 = 1 → 3 ≤ n → n < 256 ^ nb → modExpRef n nb x k = x ^ k % n

/-- R231, R240: the keystream repeats with period N; a counter value ≡ 0 gives a zero block and ≡ 1 gives 00 .. 00 01. The
exponent is at least 1, since with E = 0 every power is 1 (R175). -/
def Obligations.KeystreamDependsOnCounterModN : Prop :=
  ∀ (s : State) (i : Nat), 3 ≤ s.keyN.toNat → s.keyN.toNat < 256 ^ s.nb.toNat →
    keystream s (i + s.keyN.toNat) = keystream s i ∧
    ((s.nonce.toNat + i) % s.keyN.toNat = 0 → 0 < s.keyE.toNat → keystream s i = zeros s.nb.toNat) ∧
    ((s.nonce.toNat + i) % s.keyN.toNat = 1 → keystream s i = zeros (s.nb.toNat - 1) ++ [0x01])

/-- R312 with R231, R240: with NONCE ≥ 2, NONCE + blocks ≤ N and a valid RSA key (R176) no keystream block of the stream is
all zero or 00 .. 00 01, and no two are equal. -/
def Obligations.ClearNonceAvoidsUnmaskedBlocks : Prop :=
  ∀ (p q : Nat) (s : State) (blocks i j : Nat), RsaKey p q s → s.keyN.toNat < 256 ^ s.nb.toNat →
    NonceClear blocks s → i < blocks → j < blocks →
    keystream s i ≠ zeros s.nb.toNat ∧
    keystream s i ≠ zeros (s.nb.toNat - 1) ++ [0x01] ∧
    (keystream s i = keystream s j → i = j)

/-! ### Round trips and splitting, through the commands themselves -/

/-- R176: with a valid RSA key, MODEXP_PRV of MODEXP_PUB's output gives back every block whose value is below N. -/
def Obligations.RsaRoundTripThroughCommands : Prop :=
  ∀ (p q : Nat) (s t u : State) (dst : Word), RsaKey p q s → s.keyN.toNat < 256 ^ s.nb.toNat →
    be (readBytes s s.lsrc.toNat s.nb.toNat) < s.keyN.toNat →
    exec .modexpPub s = .next t → t.errcode = 0 →
    exec .modexpPrv { t with lsrc := s.ldst, ldst := dst } = .next u → u.errcode = 0 →
    readBytes u dst.toNat s.nb.toNat = readBytes s s.lsrc.toNat s.nb.toNat

/-- R212: with a valid RSA key and every frame below N, ECB_DEC of ECB_ENC's output gives back the plaintext with
PADFMT = 0, for every length. -/
def Obligations.EcbRoundTripThroughCommands : Prop :=
  ∀ (p q : Nat) (s t u : State) (dst : Word), RsaKey p q s → s.keyN.toNat < 256 ^ s.nb.toNat → s.nb.toNat ≤ 512 →
    (∀ j < ceilDiv s.llen.toNat (s.nb.toNat - 2), be (frame s.nb.toNat (ecbChunk s j)) < s.keyN.toNat) →
    exec .ecbEnc s = .next t → t.errcode = 0 →
    exec .ecbDec { t with lsrc := s.ldst, ldst := dst, llen := t.outlen } = .next u → u.errcode = 0 →
    readBytes u dst.toNat s.llen.toNat = readBytes s s.lsrc.toNat s.llen.toNat ∧ u.outlen = s.llen ∧ u.padfmt = false

/-- R239: CTR applied to CTR's output with the same key, nonce and block positions gives back the input, with no condition on
the key. NB ≥ 1 is part of the invariant (R64). -/
def Obligations.CtrTwiceRestoresInput : Prop :=
  ∀ (i : Instr) (s t u : State) (dst : Word), (i = .ctr ∨ i = .ctrCont) → 0 < s.nb.toNat →
    exec i s = .next t → t.errcode = 0 →
    exec i { t with lsrc := s.ldst, ldst := dst, ctrCount := s.ctrCount, ctrOpen := s.ctrOpen } = .next u →
    u.errcode = 0 →
    readBytes u dst.toNat s.llen.toNat = readBytes s s.lsrc.toNat s.llen.toNat

/-- R242: CTR over A, a multiple of NB long, then CTR.CONT over B leaves the same DMEM, CTR_COUNT and CTR_OPEN as one CTR over
A ‖ B. -/
def Obligations.CtrSplitEqualsOneCommand : Prop :=
  ∀ (s t u v : State) (la lb : Word), 0 < s.nb.toNat → la.toNat % s.nb.toNat = 0 →
    exec .ctr { s with llen := la } = .next t → t.errcode = 0 →
    exec .ctrCont { t with lsrc := s.lsrc + la, ldst := s.ldst + la, llen := lb } = .next u → u.errcode = 0 →
    exec .ctr { s with llen := la + lb } = .next v → v.errcode = 0 →
    (∀ a, dmemByte u a = dmemByte v a) ∧ u.ctrCount = v.ctrCount ∧ u.ctrOpen = v.ctrOpen

/-- R213: ECB_ENC over A, a multiple of K long, then over B writes what one ECB_ENC over A ‖ B writes. -/
def Obligations.EcbEncSplitEqualsOneCommand : Prop :=
  ∀ (s t u v : State) (la lb : Word), la.toNat % (s.nb.toNat - 2) = 0 →
    exec .ecbEnc { s with llen := la } = .next t → t.errcode = 0 →
    exec .ecbEnc { t with lsrc := s.lsrc + la, ldst := s.ldst + t.outlen, llen := lb } = .next u → u.errcode = 0 →
    exec .ecbEnc { s with llen := la + lb } = .next v → v.errcode = 0 →
    (∀ a, dmemByte u a = dmemByte v a) ∧ v.outlen.toNat = t.outlen.toNat + u.outlen.toNat

/-- R213: ECB_DEC over A, a multiple of NB long, then over B writes what one ECB_DEC over A ‖ B writes. -/
def Obligations.EcbDecSplitEqualsOneCommand : Prop :=
  ∀ (s t u v : State) (la lb : Word),
    exec .ecbDec { s with llen := la } = .next t → t.errcode = 0 →
    exec .ecbDec { t with lsrc := s.lsrc + la, ldst := s.ldst + t.outlen, llen := lb } = .next u → u.errcode = 0 →
    exec .ecbDec { s with llen := la + lb } = .next v → v.errcode = 0 →
    (∀ a, dmemByte u a = dmemByte v a) ∧ v.outlen.toNat = t.outlen.toNat + u.outlen.toNat ∧
    (v.padfmt = true ↔ t.padfmt = true ∨ u.padfmt = true)
end

