-- ==== Sys2Proof/Laws/Arith.lean ====
section
/-! SUPPORT. The arithmetic functions compute what their rules say: ModExp (41_modexp_arith.md R171), inv (00_scope.md R16),
MONTMUL (R177) and BARRETT (R178). -/

namespace Sys2Proof.Machine

theorem powBits_eq (n x : Nat) : ∀ bits k, k < 2 ^ bits → powBits n x bits k = x ^ k % n := by
  intro bits
  induction bits with
  | zero =>
    intro k hk
    obtain rfl : k = 0 := by simpa using hk
    simp [powBits]
  | succ bits ih =>
    intro k hk
    have hh : powBits n x bits (k / 2) = x ^ (k / 2) % n := ih _ (by rw [pow_succ] at hk; omega)
    have hsq : powBits n x bits (k / 2) * powBits n x bits (k / 2) % n = x ^ (2 * (k / 2)) % n := by
      rw [hh, ← Nat.mul_mod, ← pow_add, two_mul]
    simp only [powBits]
    split
    · rename_i hodd
      rw [hsq, Nat.mod_mul_mod, ← pow_succ]
      congr 2
      omega
    · rw [hsq]
      congr 2
      omega

/-- ModExp(x, k) is x^k mod N for every x and k (R171, R174, R175). -/
theorem modExp_eq (n x k : Nat) : modExp n x k = x ^ k % n := by
  rw [modExp, powBits_eq _ _ _ _ Nat.lt_log2_self, ← Nat.pow_mod]

theorem modExp_lt (n x k : Nat) (h : 0 < n) : modExp n x k < n := by
  rw [modExp_eq]; exact Nat.mod_lt _ h

theorem modExp_mod (n x k : Nat) : modExp n (x % n) k = modExp n x k := by
  rw [modExp_eq, modExp_eq, ← Nat.pow_mod]

/-- Euclid's descent gives an inverse when a < m and a, m are coprime. -/
theorem invDescent_spec : ∀ fuel a m, a ≤ fuel → 1 < m → a < m → Nat.Coprime a m →
    invDescent fuel a m < m ∧ a * invDescent fuel a m % m = 1 := by
  intro fuel
  induction fuel with
  | zero =>
    intro a m ha hm _ hc
    obtain rfl : a = 0 := by omega
    have : m = 1 := by simpa using hc
    omega
  | succ fuel ih =>
    intro a m ha hm ham hc
    by_cases h1 : a ≤ 1
    · simp only [invDescent, if_pos h1]
      interval_cases a
      · have : m = 1 := by simpa using hc
        omega
      · exact ⟨hm, by simp [Nat.mod_eq_of_lt hm]⟩
    · simp only [invDescent, if_neg h1]
      have ha0 : 0 < a := by omega
      have hr : m % a < a := Nat.mod_lt _ ha0
      have hc' : Nat.Coprime (m % a) a := by
        rw [Nat.coprime_iff_gcd_eq_one, ← Nat.gcd_rec]; exact hc
      obtain ⟨hy, hyv⟩ := ih (m % a) a (by omega) (by omega) hr hc'
      generalize invDescent fuel (m % a) a = y at hy hyv ⊢
      have hdvd : a ∣ 1 + m * (a - y) := by
        have hmy : m * y % a = 1 := by rw [Nat.mul_mod, Nat.mod_eq_of_lt hy] at *; simpa using hyv
        have hsplit : 1 + m * (a - y) + m * y = 1 + m * a := by
          rw [add_assoc, ← Nat.mul_add, Nat.sub_add_cancel hy.le]
        have hmod : (1 + m * (a - y) + m * y) % a = 1 % a := by rw [hsplit]; simp
        have h2 : (1 + m * (a - y) + m * y) ≡ (0 + m * y) [MOD a] := by
          show _ % a = _ % a
          rw [hmod, zero_add, hmy, Nat.mod_eq_of_lt (by omega)]
        exact (Nat.modEq_zero_iff_dvd).mp (Nat.ModEq.add_right_cancel' _ h2)
      obtain ⟨z, hz⟩ := hdvd
      have hdiv : (1 + m * (a - y)) / a = z := by rw [hz]; exact Nat.mul_div_cancel_left _ ha0
      rw [hdiv]
      have hy0 : y ≠ 0 := by rintro rfl; simp at hyv
      refine ⟨?_, ?_⟩
      · have h3 : m * (a - y) ≤ m * (a - 1) := Nat.mul_le_mul_left _ (by omega)
        have h4 : m * (a - 1) = m * a - m := by rw [Nat.mul_sub, Nat.mul_one]
        have h5 : m ≤ m * a := Nat.le_mul_of_pos_right _ ha0
        have h6 : a * z < a * m := by rw [← hz, mul_comm a m]; omega
        exact Nat.lt_of_mul_lt_mul_left h6
      · rw [← hz]; simp [Nat.mod_eq_of_lt hm]

/-- inv(a, m) (R16). -/
theorem modInv_spec (a m : Nat) (hm : 1 < m) (hc : Nat.Coprime a m) : modInv a m < m ∧ a * modInv a m % m = 1 := by
  have hlt : a % m < m := Nat.mod_lt _ (by omega)
  have hc' : Nat.Coprime (a % m) m := by rwa [Nat.coprime_iff_gcd_eq_one, ← Nat.gcd_rec, Nat.gcd_comm]
  have h := invDescent_spec m (a % m) m hlt.le hm hlt hc'
  exact ⟨h.1, by rw [← h.2, Nat.mod_mul_mod]; rfl⟩

/-- The inverse is the only one below the modulus (R16). -/
theorem modInv_unique (a m v : Nat) (hv : v < m) (hav : a * v % m = 1) : modInv a m = v := by
  have hm : 1 < m := by
    rcases Nat.lt_or_ge 1 m with h | h
    · exact h
    · interval_cases m <;> omega
  have hc : Nat.Coprime a m := by
    refine Nat.coprime_of_mul_modEq_one v ?_
    show a * v % m = 1 % m
    rw [hav, Nat.mod_eq_of_lt hm]
  obtain ⟨h1, h2⟩ := modInv_spec a m hm hc
  have h3 : a * modInv a m ≡ a * v [MOD m] := by show _ % m = _ % m; rw [h2, hav]
  have h4 := Nat.ModEq.cancel_left_of_coprime (by rwa [Nat.gcd_comm] ) h3
  have h5 : modInv a m % m = v % m := h4
  rwa [Nat.mod_eq_of_lt h1, Nat.mod_eq_of_lt hv] at h5

theorem montRadix_coprime (n nb : Nat) (h : n % 2 = 1) : Nat.Coprime (montRadix nb) n := by
  unfold montRadix
  apply Nat.Coprime.pow_left
  rw [Nat.coprime_two_left]
  exact Nat.odd_iff.mpr h

theorem montRadix_eq (nb : Nat) : montRadix nb = 256 ^ nb := by
  rw [montRadix, pow_mul]; norm_num

/-- MONTMUL's result is the value below N that times R is a*b modulo N (R177). -/
theorem montProduct_spec (n nb a b : Nat) (hodd : n % 2 = 1) (hn : 3 ≤ n) :
    montProduct n nb a b < n ∧ montProduct n nb a b * montRadix nb % n = a * b % n := by
  obtain ⟨_, h⟩ := modInv_spec (montRadix nb) n (by omega) (montRadix_coprime n nb hodd)
  refine ⟨Nat.mod_lt _ (by omega), ?_⟩
  unfold montProduct
  rw [Nat.mod_mul_mod, show a * b * modInv (montRadix nb) n * montRadix nb = a * b * (montRadix nb * modInv (montRadix nb) n) by ring,
    Nat.mul_mod, h, Nat.mul_one, Nat.mod_mod]

end Sys2Proof.Machine
end

