-- ==== Sys2Proof/Laws/Bytes.lean ====
section
/-! SUPPORT. Lengths and values of byte strings: BE and I2BE are inverse (00_scope.md R19), slices and blocks put a string
together again. -/

namespace Sys2Proof.Machine

theorem be_foldl (s : List Byte) (acc : Nat) :
    s.foldl (fun acc b => acc * 256 + b.toNat) acc = acc * 256 ^ s.length + be s := by
  induction s generalizing acc with
  | nil => simp [be]
  | cons b s ih =>
    simp only [be, List.foldl_cons, List.length_cons] at ih ⊢
    rw [ih, ih (0 * 256 + b.toNat)]
    ring

@[simp] theorem be_nil : be [] = 0 := rfl

theorem be_cons (b : Byte) (s : List Byte) : be (b :: s) = b.toNat * 256 ^ s.length + be s := by
  rw [be, List.foldl_cons, be_foldl]; simp

theorem be_append (s t : List Byte) : be (s ++ t) = be s * 256 ^ t.length + be t := by
  rw [be, List.foldl_append, be_foldl]; rfl

theorem be_lt (s : List Byte) : be s < 256 ^ s.length := by
  induction s with
  | nil => simp
  | cons b s ih =>
    rw [be_cons, List.length_cons, pow_succ]
    have : b.toNat < 256 := b.isLt
    nlinarith [Nat.mul_le_mul_right (256 ^ s.length) (Nat.le_of_lt_succ this)]

@[simp] theorem i2be_length (v k : Nat) : (i2be v k).length = k := by
  induction k generalizing v with
  | zero => rfl
  | succ k ih => simp [i2be, ih]

theorem be_i2be_mod (v k : Nat) : be (i2be v k) = v % 256 ^ k := by
  induction k generalizing v with
  | zero => simp [i2be, Nat.mod_one]
  | succ k ih =>
    rw [i2be, be_append, ih, pow_succ, mul_comm (256 ^ k) 256, Nat.mod_mul]
    simp [be_cons]
    ring

theorem be_i2be (v k : Nat) (h : v < 256 ^ k) : be (i2be v k) = v := by
  rw [be_i2be_mod, Nat.mod_eq_of_lt h]

/-- A byte string is determined by its length and its value. -/
theorem be_injective (s t : List Byte) (hl : s.length = t.length) (h : be s = be t) : s = t := by
  induction s generalizing t with
  | nil => exact (List.length_eq_zero_iff.mp hl.symm).symm
  | cons b s ih =>
    cases t with
    | nil => simp at hl
    | cons c t =>
      have hl' : s.length = t.length := by simpa using hl
      rw [be_cons, be_cons, hl'] at h
      have hs := hl' ▸ be_lt s
      have ht := be_lt t
      have hb : b.toNat = c.toNat := by
        have h1 : (b.toNat * 256 ^ t.length + be s) / 256 ^ t.length = b.toNat := by
          rw [mul_comm, Nat.mul_add_div (by positivity), Nat.div_eq_of_lt hs, add_zero]
        have h2 : (c.toNat * 256 ^ t.length + be t) / 256 ^ t.length = c.toNat := by
          rw [mul_comm, Nat.mul_add_div (by positivity), Nat.div_eq_of_lt ht, add_zero]
        rw [← h1, h, h2]
      rw [hb] at h
      rw [BitVec.eq_of_toNat_eq hb, ih t hl' (Nat.add_left_cancel h)]

theorem i2be_be (s : List Byte) : i2be (be s) s.length = s :=
  be_injective _ _ (by simp) (be_i2be _ _ (be_lt s))

@[simp] theorem zeros_length (k : Nat) : (zeros k).length = k := List.length_replicate

@[simp] theorem be_zeros (k : Nat) : be (zeros k) = 0 := by
  induction k with
  | zero => rfl
  | succ k ih => rw [zeros, List.replicate_succ, be_cons, show List.replicate k 0 = zeros k from rfl, ih]; simp

theorem slice_length (s : List Byte) (i j : Nat) : (slice s i j).length = min (j - i) (s.length - i) := by
  simp [slice]

@[simp] theorem xorBytes_length (a b : List Byte) : (xorBytes a b).length = min a.length b.length := by
  simp [xorBytes]

/-- XOR with the same string twice gives back a string no longer than it (R20, 43_ctr.md R239). -/
theorem xorBytes_self (a k : List Byte) (h : a.length ≤ k.length) : xorBytes (xorBytes a k) k = a := by
  induction a generalizing k with
  | nil => cases k <;> rfl
  | cons x a ih =>
    cases k with
    | nil => simp at h
    | cons y k =>
      have := ih k (by simpa using h)
      simp only [xorBytes, List.zipWith_cons_cons] at this ⊢
      rw [this, BitVec.xor_assoc, BitVec.xor_self, BitVec.xor_zero]

@[simp] theorem concatBlocks_zero (f : Nat → List Byte) : concatBlocks 0 f = [] := rfl

theorem concatBlocks_succ (n : Nat) (f : Nat → List Byte) : concatBlocks (n + 1) f = concatBlocks n f ++ f n := by
  simp [concatBlocks, List.range_succ]

/-- The first blocks, then the others. -/
theorem concatBlocks_add (m n : Nat) (f : Nat → List Byte) :
    concatBlocks (m + n) f = concatBlocks m f ++ concatBlocks n (fun j => f (m + j)) := by
  induction n with
  | zero => simp
  | succ n ih => rw [← add_assoc, concatBlocks_succ, ih, concatBlocks_succ, List.append_assoc]

theorem concatBlocks_congr (n : Nat) (f g : Nat → List Byte) (h : ∀ j < n, f j = g j) :
    concatBlocks n f = concatBlocks n g := by
  induction n with
  | zero => rfl
  | succ n ih => rw [concatBlocks_succ, concatBlocks_succ, ih (fun j hj => h j (by omega)), h n (by omega)]

/-- Blocks of one length k. -/
theorem concatBlocks_length (n k : Nat) (f : Nat → List Byte) (h : ∀ j < n, (f j).length = k) :
    (concatBlocks n f).length = n * k := by
  induction n with
  | zero => simp
  | succ n ih =>
    rw [concatBlocks_succ, List.length_append, ih (fun j hj => h j (by omega)), h n (by omega)]; ring

/-- The first n pieces of length k of a string put together are its first n*k bytes. -/
theorem concatBlocks_slice_take (s : List Byte) (k n : Nat) :
    concatBlocks n (fun j => slice s (j * k) ((j + 1) * k)) = s.take (n * k) := by
  induction n with
  | zero => simp
  | succ n ih =>
    rw [concatBlocks_succ, ih, slice]
    have h1 : (n + 1) * k - n * k = k := by rw [Nat.succ_mul, Nat.add_sub_cancel_left]
    rw [h1, ← List.take_add, Nat.succ_mul]

theorem ceilDiv_mul_ge (a b : Nat) (h : 0 < b) : a ≤ ceilDiv a b * b := by
  unfold ceilDiv
  have := Nat.div_add_mod (a + b - 1) b
  have := Nat.mod_lt (a + b - 1) h
  rw [mul_comm]
  omega

/-- All the pieces of length k of a string, the last perhaps shorter, put together are the string. -/
theorem concatBlocks_slice (s : List Byte) (k : Nat) (h : 0 < k) :
    concatBlocks (ceilDiv s.length k) (fun j => slice s (j * k) ((j + 1) * k)) = s := by
  rw [concatBlocks_slice_take, List.take_of_length_le (ceilDiv_mul_ge _ _ h)]

@[simp] theorem ceilDiv_zero (b : Nat) : ceilDiv 0 b = 0 := by
  unfold ceilDiv
  cases b with
  | zero => rfl
  | succ b => simp

theorem ceilDiv_mul (n b : Nat) (h : 0 < b) : ceilDiv (n * b) b = n := by
  unfold ceilDiv
  rw [show n * b + b - 1 = (b - 1) + b * n by rw [mul_comm]; omega, Nat.add_mul_div_left _ _ h,
    Nat.div_eq_of_lt (by omega), zero_add]

theorem ceilDiv_add (n a b : Nat) (h : 0 < b) : ceilDiv (n * b + a) b = n + ceilDiv a b := by
  unfold ceilDiv
  rw [show n * b + a + b - 1 = (a + b - 1) + b * n by rw [mul_comm]; omega, Nat.add_mul_div_left _ _ h, add_comm]

end Sys2Proof.Machine
end

