-- ==== Sys2Proof/Laws/Memory.lean ====
section
/-! SUPPORT. What the DMEM operations do to every byte, and that each keeps the canonical form. -/

namespace Sys2Proof.Machine

theorem memGet_memSet (m : Memory) (a : Nat) (b : Byte) (x : Nat) :
    memGet (memSet m a b) x = if x = a then some b else memGet m x := by
  induction m with
  | nil => simp [memSet, memGet]
  | cons c m ih =>
    obtain ⟨a', b'⟩ := c
    simp only [memSet]
    split
    · simp only [memGet]
    · split
      · subst_vars; simp only [memGet]; split <;> rfl
      · simp only [memGet, ih]
        split <;> split <;> simp_all

theorem mem_memSet (m : Memory) (a : Nat) (b : Byte) (c : Host.Cell) (h : c ∈ memSet m a b) :
    c = (a, b) ∨ c ∈ m := by
  induction m with
  | nil => simpa [memSet] using h
  | cons d m ih =>
    simp only [memSet] at h
    split at h
    · simpa using h
    · split at h
      · simp only [List.mem_cons] at h ⊢; tauto
      · simp only [List.mem_cons] at h ⊢
        rcases h with h | h
        · exact .inr (.inl h)
        · rcases ih h with h | h <;> tauto

theorem memSet_rising (m : Memory) (a : Nat) (b : Byte) (h : m.Pairwise (fun u v => u.1 < v.1)) :
    (memSet m a b).Pairwise (fun u v => u.1 < v.1) := by
  induction m with
  | nil => simp [memSet]
  | cons c m ih =>
    have hc := List.pairwise_cons.mp h
    simp only [memSet]
    split
    · refine List.pairwise_cons.mpr ⟨fun d hd => ?_, h⟩
      rcases List.mem_cons.mp hd with rfl | hd
      · assumption
      · have := hc.1 d hd; dsimp only at *; omega
    · split
      · subst_vars
        exact List.pairwise_cons.mpr ⟨hc.1, hc.2⟩
      · refine List.pairwise_cons.mpr ⟨fun d hd => ?_, ih hc.2⟩
        rcases mem_memSet m a b d hd with rfl | hd
        · dsimp only; omega
        · exact hc.1 d hd

theorem memSet_wf (m : Memory) (a : Nat) (b : Byte) (h : m.wf) (ha : a < Config.dmemSize) : (memSet m a b).wf :=
  ⟨memSet_rising m a b h.1, fun c hc => by
    rcases mem_memSet m a b c hc with rfl | hc
    · exact ha
    · exact h.2 c hc⟩

theorem memWrite_wf (s : List Byte) : ∀ (m : Memory) (a : Nat), m.wf → (s = [] ∨ a + s.length ≤ Config.dmemSize) →
    (memWrite m a s).wf := by
  induction s with
  | nil => intro m a h _; exact h
  | cons b s ih =>
    intro m a h ha
    have hl : a + (s.length + 1) ≤ Config.dmemSize := by simpa using ha
    exact ih _ _ (memSet_wf m a b h (by omega)) (.inr (by omega))

theorem memWrite_rising (s : List Byte) : ∀ (m : Memory) (a : Nat), m.Pairwise (fun u v => u.1 < v.1) →
    (memWrite m a s).Pairwise (fun u v => u.1 < v.1) := by
  induction s with
  | nil => intro m a h; exact h
  | cons b s ih => intro m a h; exact ih _ _ (memSet_rising m a b h)

theorem memErase_wf (m : Memory) (a k : Nat) (h : m.wf) : (memErase m a k).wf :=
  ⟨h.1.filter _, fun c hc => h.2 c (List.mem_filter.mp hc).1⟩

theorem reset_mem_wf : State.reset.mem.wf := by
  refine ⟨List.Pairwise.nil, fun c hc => ?_⟩
  cases hc

/-- What a byte holds after MemWrite: the string's byte inside its range, the old one outside. -/
theorem memGet_memWrite (s : List Byte) : ∀ (m : Memory) (a x : Nat),
    memGet (memWrite m a s) x = if h : a ≤ x ∧ x < a + s.length then some (s[x - a]'(by omega)) else memGet m x := by
  induction s with
  | nil => intro m a x; simp only [memWrite, List.length_nil]; rw [dif_neg (by omega)]
  | cons b s ih =>
    intro m a x
    simp only [memWrite, List.length_cons]
    rw [ih, memGet_memSet]
    by_cases h1 : a + 1 ≤ x ∧ x < a + 1 + s.length
    · rw [dif_pos h1, dif_pos (by omega)]
      have : x - a = (x - (a + 1)) + 1 := by omega
      simp [this]
    · rw [dif_neg h1]
      by_cases h2 : x = a
      · subst h2; rw [if_pos rfl, dif_pos (by omega)]; simp
      · rw [if_neg h2, dif_neg (by omega)]

theorem memGet_memWrite_outside (m : Memory) (a x : Nat) (s : List Byte) (h : ¬(a ≤ x ∧ x < a + s.length)) :
    memGet (memWrite m a s) x = memGet m x := by
  rw [memGet_memWrite, dif_neg h]

/-- What a byte holds after a range is made unwritten. -/
theorem memGet_memErase (m : Memory) (a k x : Nat) :
    memGet (memErase m a k) x = if inRange a k x then none else memGet m x := by
  induction m with
  | nil => simp [memErase, memGet]
  | cons c m ih =>
    obtain ⟨a', b'⟩ := c
    simp only [memErase] at ih ⊢
    by_cases h : inRange a k a' = true
    · rw [List.filter_cons_of_neg (by simp [h]), ih]
      simp only [memGet]
      split
      · rfl
      · rw [if_neg (by rintro rfl; contradiction)]
    · rw [List.filter_cons_of_pos (by simp [h])]
      simp only [memGet, ih]
      by_cases hx : x = a'
      · subst hx; simp [h]
      · simp [hx]

end Sys2Proof.Machine
end

