-- ==== Sys2Proof/Laws/State.lean ====
section
/-! SUPPORT. Every field of the state after every shared update, so that no proof unfolds a record update: one lemma per
field per update, each true by rfl. The two resets have theirs at the end. -/

namespace Sys2Proof.Machine

variable (s : State)

/-! ### completeOk -/

@[simp] theorem completeOk_src : (completeOk s).src = s.src := rfl
@[simp] theorem completeOk_dst : (completeOk s).dst = s.dst := rfl
@[simp] theorem completeOk_len : (completeOk s).len = s.len := rfl
@[simp] theorem completeOk_lcmd : (completeOk s).lcmd = s.lcmd := rfl
@[simp] theorem completeOk_lsrc : (completeOk s).lsrc = s.lsrc := rfl
@[simp] theorem completeOk_ldst : (completeOk s).ldst = s.ldst := rfl
@[simp] theorem completeOk_llen : (completeOk s).llen = s.llen := rfl
@[simp] theorem completeOk_busy : (completeOk s).busy = false := rfl
@[simp] theorem completeOk_done : (completeOk s).done = true := rfl
@[simp] theorem completeOk_err : (completeOk s).err = false := rfl
@[simp] theorem completeOk_padfmt : (completeOk s).padfmt = s.padfmt := rfl
@[simp] theorem completeOk_errcode : (completeOk s).errcode = 0 := rfl
@[simp] theorem completeOk_outlen : (completeOk s).outlen = s.outlen := rfl
@[simp] theorem completeOk_intStatus : (completeOk s).intStatus = s.intStatus ||| doneEv := rfl
@[simp] theorem completeOk_intEnable : (completeOk s).intEnable = s.intEnable := rfl
@[simp] theorem completeOk_keyN : (completeOk s).keyN = s.keyN := rfl
@[simp] theorem completeOk_keyE : (completeOk s).keyE = s.keyE := rfl
@[simp] theorem completeOk_keyD : (completeOk s).keyD = s.keyD := rfl
@[simp] theorem completeOk_nb : (completeOk s).nb = s.nb := rfl
@[simp] theorem completeOk_keyValid : (completeOk s).keyValid = s.keyValid := rfl
@[simp] theorem completeOk_nonce : (completeOk s).nonce = s.nonce := rfl
@[simp] theorem completeOk_ctrCount : (completeOk s).ctrCount = s.ctrCount := rfl
@[simp] theorem completeOk_ctrOpen : (completeOk s).ctrOpen = s.ctrOpen := rfl
@[simp] theorem completeOk_mem : (completeOk s).mem = s.mem := rfl
@[simp] theorem completeOk_reply : (completeOk s).reply = s.reply := rfl
@[simp] theorem completeOk_hwResets : (completeOk s).hwResets = s.hwResets := rfl
@[simp] theorem completeOk_aborted : (completeOk s).aborted = s.aborted := rfl
@[simp] theorem completeOk_turns : (completeOk s).turns = s.turns := rfl

/-! ### completeError -/

@[simp] theorem completeError_src (c : ErrorCode) : (completeError c s).src = s.src := rfl
@[simp] theorem completeError_dst (c : ErrorCode) : (completeError c s).dst = s.dst := rfl
@[simp] theorem completeError_len (c : ErrorCode) : (completeError c s).len = s.len := rfl
@[simp] theorem completeError_lcmd (c : ErrorCode) : (completeError c s).lcmd = s.lcmd := rfl
@[simp] theorem completeError_lsrc (c : ErrorCode) : (completeError c s).lsrc = s.lsrc := rfl
@[simp] theorem completeError_ldst (c : ErrorCode) : (completeError c s).ldst = s.ldst := rfl
@[simp] theorem completeError_llen (c : ErrorCode) : (completeError c s).llen = s.llen := rfl
@[simp] theorem completeError_busy (c : ErrorCode) : (completeError c s).busy = false := rfl
@[simp] theorem completeError_done (c : ErrorCode) : (completeError c s).done = true := rfl
@[simp] theorem completeError_err (c : ErrorCode) : (completeError c s).err = true := rfl
@[simp] theorem completeError_padfmt (c : ErrorCode) : (completeError c s).padfmt = s.padfmt := rfl
@[simp] theorem completeError_errcode (c : ErrorCode) : (completeError c s).errcode = errorValue c := rfl
@[simp] theorem completeError_outlen (c : ErrorCode) : (completeError c s).outlen = s.outlen := rfl
@[simp] theorem completeError_intStatus (c : ErrorCode) : (completeError c s).intStatus = s.intStatus ||| (doneEv ||| errEv) := rfl
@[simp] theorem completeError_intEnable (c : ErrorCode) : (completeError c s).intEnable = s.intEnable := rfl
@[simp] theorem completeError_keyN (c : ErrorCode) : (completeError c s).keyN = s.keyN := rfl
@[simp] theorem completeError_keyE (c : ErrorCode) : (completeError c s).keyE = s.keyE := rfl
@[simp] theorem completeError_keyD (c : ErrorCode) : (completeError c s).keyD = s.keyD := rfl
@[simp] theorem completeError_nb (c : ErrorCode) : (completeError c s).nb = s.nb := rfl
@[simp] theorem completeError_keyValid (c : ErrorCode) : (completeError c s).keyValid = s.keyValid := rfl
@[simp] theorem completeError_nonce (c : ErrorCode) : (completeError c s).nonce = s.nonce := rfl
@[simp] theorem completeError_ctrCount (c : ErrorCode) : (completeError c s).ctrCount = s.ctrCount := rfl
@[simp] theorem completeError_ctrOpen (c : ErrorCode) : (completeError c s).ctrOpen = s.ctrOpen := rfl
@[simp] theorem completeError_mem (c : ErrorCode) : (completeError c s).mem = s.mem := rfl
@[simp] theorem completeError_reply (c : ErrorCode) : (completeError c s).reply = s.reply := rfl
@[simp] theorem completeError_hwResets (c : ErrorCode) : (completeError c s).hwResets = s.hwResets := rfl
@[simp] theorem completeError_aborted (c : ErrorCode) : (completeError c s).aborted = s.aborted := rfl
@[simp] theorem completeError_turns (c : ErrorCode) : (completeError c s).turns = s.turns := rfl

/-! ### startCommand -/

@[simp] theorem startCommand_src (w : Word) : (startCommand w s).src = s.src := rfl
@[simp] theorem startCommand_dst (w : Word) : (startCommand w s).dst = s.dst := rfl
@[simp] theorem startCommand_len (w : Word) : (startCommand w s).len = s.len := rfl
@[simp] theorem startCommand_lcmd (w : Word) : (startCommand w s).lcmd = w := rfl
@[simp] theorem startCommand_lsrc (w : Word) : (startCommand w s).lsrc = s.src := rfl
@[simp] theorem startCommand_ldst (w : Word) : (startCommand w s).ldst = s.dst := rfl
@[simp] theorem startCommand_llen (w : Word) : (startCommand w s).llen = s.len := rfl
@[simp] theorem startCommand_busy (w : Word) : (startCommand w s).busy = true := rfl
@[simp] theorem startCommand_done (w : Word) : (startCommand w s).done = false := rfl
@[simp] theorem startCommand_err (w : Word) : (startCommand w s).err = false := rfl
@[simp] theorem startCommand_padfmt (w : Word) : (startCommand w s).padfmt = false := rfl
@[simp] theorem startCommand_errcode (w : Word) : (startCommand w s).errcode = 0 := rfl
@[simp] theorem startCommand_outlen (w : Word) : (startCommand w s).outlen = 0 := rfl
@[simp] theorem startCommand_intStatus (w : Word) : (startCommand w s).intStatus = s.intStatus := rfl
@[simp] theorem startCommand_intEnable (w : Word) : (startCommand w s).intEnable = s.intEnable := rfl
@[simp] theorem startCommand_keyN (w : Word) : (startCommand w s).keyN = s.keyN := rfl
@[simp] theorem startCommand_keyE (w : Word) : (startCommand w s).keyE = s.keyE := rfl
@[simp] theorem startCommand_keyD (w : Word) : (startCommand w s).keyD = s.keyD := rfl
@[simp] theorem startCommand_nb (w : Word) : (startCommand w s).nb = s.nb := rfl
@[simp] theorem startCommand_keyValid (w : Word) : (startCommand w s).keyValid = s.keyValid := rfl
@[simp] theorem startCommand_nonce (w : Word) : (startCommand w s).nonce = s.nonce := rfl
@[simp] theorem startCommand_ctrCount (w : Word) : (startCommand w s).ctrCount = s.ctrCount := rfl
@[simp] theorem startCommand_ctrOpen (w : Word) : (startCommand w s).ctrOpen = s.ctrOpen := rfl
@[simp] theorem startCommand_mem (w : Word) : (startCommand w s).mem = s.mem := rfl
@[simp] theorem startCommand_reply (w : Word) : (startCommand w s).reply = s.reply := rfl
@[simp] theorem startCommand_hwResets (w : Word) : (startCommand w s).hwResets = s.hwResets := rfl
@[simp] theorem startCommand_aborted (w : Word) : (startCommand w s).aborted = s.aborted := rfl
@[simp] theorem startCommand_turns (w : Word) : (startCommand w s).turns = s.turns := rfl

/-! ### storeOut -/

@[simp] theorem storeOut_src (out : List Byte) : (storeOut out s).src = s.src := rfl
@[simp] theorem storeOut_dst (out : List Byte) : (storeOut out s).dst = s.dst := rfl
@[simp] theorem storeOut_len (out : List Byte) : (storeOut out s).len = s.len := rfl
@[simp] theorem storeOut_lcmd (out : List Byte) : (storeOut out s).lcmd = s.lcmd := rfl
@[simp] theorem storeOut_lsrc (out : List Byte) : (storeOut out s).lsrc = s.lsrc := rfl
@[simp] theorem storeOut_ldst (out : List Byte) : (storeOut out s).ldst = s.ldst := rfl
@[simp] theorem storeOut_llen (out : List Byte) : (storeOut out s).llen = s.llen := rfl
@[simp] theorem storeOut_busy (out : List Byte) : (storeOut out s).busy = s.busy := rfl
@[simp] theorem storeOut_done (out : List Byte) : (storeOut out s).done = s.done := rfl
@[simp] theorem storeOut_err (out : List Byte) : (storeOut out s).err = s.err := rfl
@[simp] theorem storeOut_padfmt (out : List Byte) : (storeOut out s).padfmt = s.padfmt := rfl
@[simp] theorem storeOut_errcode (out : List Byte) : (storeOut out s).errcode = s.errcode := rfl
@[simp] theorem storeOut_outlen (out : List Byte) : (storeOut out s).outlen = BitVec.ofNat 32 out.length := rfl
@[simp] theorem storeOut_intStatus (out : List Byte) : (storeOut out s).intStatus = s.intStatus := rfl
@[simp] theorem storeOut_intEnable (out : List Byte) : (storeOut out s).intEnable = s.intEnable := rfl
@[simp] theorem storeOut_keyN (out : List Byte) : (storeOut out s).keyN = s.keyN := rfl
@[simp] theorem storeOut_keyE (out : List Byte) : (storeOut out s).keyE = s.keyE := rfl
@[simp] theorem storeOut_keyD (out : List Byte) : (storeOut out s).keyD = s.keyD := rfl
@[simp] theorem storeOut_nb (out : List Byte) : (storeOut out s).nb = s.nb := rfl
@[simp] theorem storeOut_keyValid (out : List Byte) : (storeOut out s).keyValid = s.keyValid := rfl
@[simp] theorem storeOut_nonce (out : List Byte) : (storeOut out s).nonce = s.nonce := rfl
@[simp] theorem storeOut_ctrCount (out : List Byte) : (storeOut out s).ctrCount = s.ctrCount := rfl
@[simp] theorem storeOut_ctrOpen (out : List Byte) : (storeOut out s).ctrOpen = s.ctrOpen := rfl
@[simp] theorem storeOut_mem (out : List Byte) : (storeOut out s).mem = memWrite s.mem s.ldst.toNat out := rfl
@[simp] theorem storeOut_reply (out : List Byte) : (storeOut out s).reply = s.reply := rfl
@[simp] theorem storeOut_hwResets (out : List Byte) : (storeOut out s).hwResets = s.hwResets := rfl
@[simp] theorem storeOut_aborted (out : List Byte) : (storeOut out s).aborted = s.aborted := rfl
@[simp] theorem storeOut_turns (out : List Byte) : (storeOut out s).turns = s.turns := rfl

/-! ### noOut -/

@[simp] theorem noOut_src : (noOut s).src = s.src := rfl
@[simp] theorem noOut_dst : (noOut s).dst = s.dst := rfl
@[simp] theorem noOut_len : (noOut s).len = s.len := rfl
@[simp] theorem noOut_lcmd : (noOut s).lcmd = s.lcmd := rfl
@[simp] theorem noOut_lsrc : (noOut s).lsrc = s.lsrc := rfl
@[simp] theorem noOut_ldst : (noOut s).ldst = s.ldst := rfl
@[simp] theorem noOut_llen : (noOut s).llen = s.llen := rfl
@[simp] theorem noOut_busy : (noOut s).busy = s.busy := rfl
@[simp] theorem noOut_done : (noOut s).done = s.done := rfl
@[simp] theorem noOut_err : (noOut s).err = s.err := rfl
@[simp] theorem noOut_padfmt : (noOut s).padfmt = s.padfmt := rfl
@[simp] theorem noOut_errcode : (noOut s).errcode = s.errcode := rfl
@[simp] theorem noOut_outlen : (noOut s).outlen = 0 := rfl
@[simp] theorem noOut_intStatus : (noOut s).intStatus = s.intStatus := rfl
@[simp] theorem noOut_intEnable : (noOut s).intEnable = s.intEnable := rfl
@[simp] theorem noOut_keyN : (noOut s).keyN = s.keyN := rfl
@[simp] theorem noOut_keyE : (noOut s).keyE = s.keyE := rfl
@[simp] theorem noOut_keyD : (noOut s).keyD = s.keyD := rfl
@[simp] theorem noOut_nb : (noOut s).nb = s.nb := rfl
@[simp] theorem noOut_keyValid : (noOut s).keyValid = s.keyValid := rfl
@[simp] theorem noOut_nonce : (noOut s).nonce = s.nonce := rfl
@[simp] theorem noOut_ctrCount : (noOut s).ctrCount = s.ctrCount := rfl
@[simp] theorem noOut_ctrOpen : (noOut s).ctrOpen = s.ctrOpen := rfl
@[simp] theorem noOut_mem : (noOut s).mem = s.mem := rfl
@[simp] theorem noOut_reply : (noOut s).reply = s.reply := rfl
@[simp] theorem noOut_hwResets : (noOut s).hwResets = s.hwResets := rfl
@[simp] theorem noOut_aborted : (noOut s).aborted = s.aborted := rfl
@[simp] theorem noOut_turns : (noOut s).turns = s.turns := rfl

/-! ### raiseEvents -/

@[simp] theorem raiseEvents_src (ev : BitVec 4) : (raiseEvents ev s).src = s.src := rfl
@[simp] theorem raiseEvents_dst (ev : BitVec 4) : (raiseEvents ev s).dst = s.dst := rfl
@[simp] theorem raiseEvents_len (ev : BitVec 4) : (raiseEvents ev s).len = s.len := rfl
@[simp] theorem raiseEvents_lcmd (ev : BitVec 4) : (raiseEvents ev s).lcmd = s.lcmd := rfl
@[simp] theorem raiseEvents_lsrc (ev : BitVec 4) : (raiseEvents ev s).lsrc = s.lsrc := rfl
@[simp] theorem raiseEvents_ldst (ev : BitVec 4) : (raiseEvents ev s).ldst = s.ldst := rfl
@[simp] theorem raiseEvents_llen (ev : BitVec 4) : (raiseEvents ev s).llen = s.llen := rfl
@[simp] theorem raiseEvents_busy (ev : BitVec 4) : (raiseEvents ev s).busy = s.busy := rfl
@[simp] theorem raiseEvents_done (ev : BitVec 4) : (raiseEvents ev s).done = s.done := rfl
@[simp] theorem raiseEvents_err (ev : BitVec 4) : (raiseEvents ev s).err = s.err := rfl
@[simp] theorem raiseEvents_padfmt (ev : BitVec 4) : (raiseEvents ev s).padfmt = s.padfmt := rfl
@[simp] theorem raiseEvents_errcode (ev : BitVec 4) : (raiseEvents ev s).errcode = s.errcode := rfl
@[simp] theorem raiseEvents_outlen (ev : BitVec 4) : (raiseEvents ev s).outlen = s.outlen := rfl
@[simp] theorem raiseEvents_intStatus (ev : BitVec 4) : (raiseEvents ev s).intStatus = s.intStatus ||| ev := rfl
@[simp] theorem raiseEvents_intEnable (ev : BitVec 4) : (raiseEvents ev s).intEnable = s.intEnable := rfl
@[simp] theorem raiseEvents_keyN (ev : BitVec 4) : (raiseEvents ev s).keyN = s.keyN := rfl
@[simp] theorem raiseEvents_keyE (ev : BitVec 4) : (raiseEvents ev s).keyE = s.keyE := rfl
@[simp] theorem raiseEvents_keyD (ev : BitVec 4) : (raiseEvents ev s).keyD = s.keyD := rfl
@[simp] theorem raiseEvents_nb (ev : BitVec 4) : (raiseEvents ev s).nb = s.nb := rfl
@[simp] theorem raiseEvents_keyValid (ev : BitVec 4) : (raiseEvents ev s).keyValid = s.keyValid := rfl
@[simp] theorem raiseEvents_nonce (ev : BitVec 4) : (raiseEvents ev s).nonce = s.nonce := rfl
@[simp] theorem raiseEvents_ctrCount (ev : BitVec 4) : (raiseEvents ev s).ctrCount = s.ctrCount := rfl
@[simp] theorem raiseEvents_ctrOpen (ev : BitVec 4) : (raiseEvents ev s).ctrOpen = s.ctrOpen := rfl
@[simp] theorem raiseEvents_mem (ev : BitVec 4) : (raiseEvents ev s).mem = s.mem := rfl
@[simp] theorem raiseEvents_reply (ev : BitVec 4) : (raiseEvents ev s).reply = s.reply := rfl
@[simp] theorem raiseEvents_hwResets (ev : BitVec 4) : (raiseEvents ev s).hwResets = s.hwResets := rfl
@[simp] theorem raiseEvents_aborted (ev : BitVec 4) : (raiseEvents ev s).aborted = s.aborted := rfl
@[simp] theorem raiseEvents_turns (ev : BitVec 4) : (raiseEvents ev s).turns = s.turns := rfl

/-! ### clearEvents -/

@[simp] theorem clearEvents_src (w : BitVec 4) : (clearEvents w s).src = s.src := rfl
@[simp] theorem clearEvents_dst (w : BitVec 4) : (clearEvents w s).dst = s.dst := rfl
@[simp] theorem clearEvents_len (w : BitVec 4) : (clearEvents w s).len = s.len := rfl
@[simp] theorem clearEvents_lcmd (w : BitVec 4) : (clearEvents w s).lcmd = s.lcmd := rfl
@[simp] theorem clearEvents_lsrc (w : BitVec 4) : (clearEvents w s).lsrc = s.lsrc := rfl
@[simp] theorem clearEvents_ldst (w : BitVec 4) : (clearEvents w s).ldst = s.ldst := rfl
@[simp] theorem clearEvents_llen (w : BitVec 4) : (clearEvents w s).llen = s.llen := rfl
@[simp] theorem clearEvents_busy (w : BitVec 4) : (clearEvents w s).busy = s.busy := rfl
@[simp] theorem clearEvents_done (w : BitVec 4) : (clearEvents w s).done = s.done := rfl
@[simp] theorem clearEvents_err (w : BitVec 4) : (clearEvents w s).err = s.err := rfl
@[simp] theorem clearEvents_padfmt (w : BitVec 4) : (clearEvents w s).padfmt = s.padfmt := rfl
@[simp] theorem clearEvents_errcode (w : BitVec 4) : (clearEvents w s).errcode = s.errcode := rfl
@[simp] theorem clearEvents_outlen (w : BitVec 4) : (clearEvents w s).outlen = s.outlen := rfl
@[simp] theorem clearEvents_intStatus (w : BitVec 4) : (clearEvents w s).intStatus = s.intStatus &&& ~~~w := rfl
@[simp] theorem clearEvents_intEnable (w : BitVec 4) : (clearEvents w s).intEnable = s.intEnable := rfl
@[simp] theorem clearEvents_keyN (w : BitVec 4) : (clearEvents w s).keyN = s.keyN := rfl
@[simp] theorem clearEvents_keyE (w : BitVec 4) : (clearEvents w s).keyE = s.keyE := rfl
@[simp] theorem clearEvents_keyD (w : BitVec 4) : (clearEvents w s).keyD = s.keyD := rfl
@[simp] theorem clearEvents_nb (w : BitVec 4) : (clearEvents w s).nb = s.nb := rfl
@[simp] theorem clearEvents_keyValid (w : BitVec 4) : (clearEvents w s).keyValid = s.keyValid := rfl
@[simp] theorem clearEvents_nonce (w : BitVec 4) : (clearEvents w s).nonce = s.nonce := rfl
@[simp] theorem clearEvents_ctrCount (w : BitVec 4) : (clearEvents w s).ctrCount = s.ctrCount := rfl
@[simp] theorem clearEvents_ctrOpen (w : BitVec 4) : (clearEvents w s).ctrOpen = s.ctrOpen := rfl
@[simp] theorem clearEvents_mem (w : BitVec 4) : (clearEvents w s).mem = s.mem := rfl
@[simp] theorem clearEvents_reply (w : BitVec 4) : (clearEvents w s).reply = s.reply := rfl
@[simp] theorem clearEvents_hwResets (w : BitVec 4) : (clearEvents w s).hwResets = s.hwResets := rfl
@[simp] theorem clearEvents_aborted (w : BitVec 4) : (clearEvents w s).aborted = s.aborted := rfl
@[simp] theorem clearEvents_turns (w : BitVec 4) : (clearEvents w s).turns = s.turns := rfl

/-! ### answer -/

@[simp] theorem answer_src (r : Reply) : (answer r s).src = s.src := rfl
@[simp] theorem answer_dst (r : Reply) : (answer r s).dst = s.dst := rfl
@[simp] theorem answer_len (r : Reply) : (answer r s).len = s.len := rfl
@[simp] theorem answer_lcmd (r : Reply) : (answer r s).lcmd = s.lcmd := rfl
@[simp] theorem answer_lsrc (r : Reply) : (answer r s).lsrc = s.lsrc := rfl
@[simp] theorem answer_ldst (r : Reply) : (answer r s).ldst = s.ldst := rfl
@[simp] theorem answer_llen (r : Reply) : (answer r s).llen = s.llen := rfl
@[simp] theorem answer_busy (r : Reply) : (answer r s).busy = s.busy := rfl
@[simp] theorem answer_done (r : Reply) : (answer r s).done = s.done := rfl
@[simp] theorem answer_err (r : Reply) : (answer r s).err = s.err := rfl
@[simp] theorem answer_padfmt (r : Reply) : (answer r s).padfmt = s.padfmt := rfl
@[simp] theorem answer_errcode (r : Reply) : (answer r s).errcode = s.errcode := rfl
@[simp] theorem answer_outlen (r : Reply) : (answer r s).outlen = s.outlen := rfl
@[simp] theorem answer_intStatus (r : Reply) : (answer r s).intStatus = s.intStatus := rfl
@[simp] theorem answer_intEnable (r : Reply) : (answer r s).intEnable = s.intEnable := rfl
@[simp] theorem answer_keyN (r : Reply) : (answer r s).keyN = s.keyN := rfl
@[simp] theorem answer_keyE (r : Reply) : (answer r s).keyE = s.keyE := rfl
@[simp] theorem answer_keyD (r : Reply) : (answer r s).keyD = s.keyD := rfl
@[simp] theorem answer_nb (r : Reply) : (answer r s).nb = s.nb := rfl
@[simp] theorem answer_keyValid (r : Reply) : (answer r s).keyValid = s.keyValid := rfl
@[simp] theorem answer_nonce (r : Reply) : (answer r s).nonce = s.nonce := rfl
@[simp] theorem answer_ctrCount (r : Reply) : (answer r s).ctrCount = s.ctrCount := rfl
@[simp] theorem answer_ctrOpen (r : Reply) : (answer r s).ctrOpen = s.ctrOpen := rfl
@[simp] theorem answer_mem (r : Reply) : (answer r s).mem = s.mem := rfl
@[simp] theorem answer_reply (r : Reply) : (answer r s).reply = some r := rfl
@[simp] theorem answer_hwResets (r : Reply) : (answer r s).hwResets = s.hwResets := rfl
@[simp] theorem answer_aborted (r : Reply) : (answer r s).aborted = s.aborted := rfl
@[simp] theorem answer_turns (r : Reply) : (answer r s).turns = s.turns := rfl

/-! ### windowWrite -/

@[simp] theorem windowWrite_src (base : Nat) (w : Word) (strb : Strobe) : (windowWrite base w strb s).src = s.src := rfl
@[simp] theorem windowWrite_dst (base : Nat) (w : Word) (strb : Strobe) : (windowWrite base w strb s).dst = s.dst := rfl
@[simp] theorem windowWrite_len (base : Nat) (w : Word) (strb : Strobe) : (windowWrite base w strb s).len = s.len := rfl
@[simp] theorem windowWrite_lcmd (base : Nat) (w : Word) (strb : Strobe) : (windowWrite base w strb s).lcmd = s.lcmd := rfl
@[simp] theorem windowWrite_lsrc (base : Nat) (w : Word) (strb : Strobe) : (windowWrite base w strb s).lsrc = s.lsrc := rfl
@[simp] theorem windowWrite_ldst (base : Nat) (w : Word) (strb : Strobe) : (windowWrite base w strb s).ldst = s.ldst := rfl
@[simp] theorem windowWrite_llen (base : Nat) (w : Word) (strb : Strobe) : (windowWrite base w strb s).llen = s.llen := rfl
@[simp] theorem windowWrite_busy (base : Nat) (w : Word) (strb : Strobe) : (windowWrite base w strb s).busy = s.busy := rfl
@[simp] theorem windowWrite_done (base : Nat) (w : Word) (strb : Strobe) : (windowWrite base w strb s).done = s.done := rfl
@[simp] theorem windowWrite_err (base : Nat) (w : Word) (strb : Strobe) : (windowWrite base w strb s).err = s.err := rfl
@[simp] theorem windowWrite_padfmt (base : Nat) (w : Word) (strb : Strobe) : (windowWrite base w strb s).padfmt = s.padfmt := rfl
@[simp] theorem windowWrite_errcode (base : Nat) (w : Word) (strb : Strobe) : (windowWrite base w strb s).errcode = s.errcode := rfl
@[simp] theorem windowWrite_outlen (base : Nat) (w : Word) (strb : Strobe) : (windowWrite base w strb s).outlen = s.outlen := rfl
@[simp] theorem windowWrite_intStatus (base : Nat) (w : Word) (strb : Strobe) : (windowWrite base w strb s).intStatus = s.intStatus := rfl
@[simp] theorem windowWrite_intEnable (base : Nat) (w : Word) (strb : Strobe) : (windowWrite base w strb s).intEnable = s.intEnable := rfl
@[simp] theorem windowWrite_keyN (base : Nat) (w : Word) (strb : Strobe) : (windowWrite base w strb s).keyN = s.keyN := rfl
@[simp] theorem windowWrite_keyE (base : Nat) (w : Word) (strb : Strobe) : (windowWrite base w strb s).keyE = s.keyE := rfl
@[simp] theorem windowWrite_keyD (base : Nat) (w : Word) (strb : Strobe) : (windowWrite base w strb s).keyD = s.keyD := rfl
@[simp] theorem windowWrite_nb (base : Nat) (w : Word) (strb : Strobe) : (windowWrite base w strb s).nb = s.nb := rfl
@[simp] theorem windowWrite_keyValid (base : Nat) (w : Word) (strb : Strobe) : (windowWrite base w strb s).keyValid = s.keyValid := rfl
@[simp] theorem windowWrite_nonce (base : Nat) (w : Word) (strb : Strobe) : (windowWrite base w strb s).nonce = s.nonce := rfl
@[simp] theorem windowWrite_ctrCount (base : Nat) (w : Word) (strb : Strobe) : (windowWrite base w strb s).ctrCount = s.ctrCount := rfl
@[simp] theorem windowWrite_ctrOpen (base : Nat) (w : Word) (strb : Strobe) : (windowWrite base w strb s).ctrOpen = s.ctrOpen := rfl
@[simp] theorem windowWrite_mem (base : Nat) (w : Word) (strb : Strobe) : (windowWrite base w strb s).mem = [0, 1, 2, 3].foldl (writeLane base w strb) s.mem := rfl
@[simp] theorem windowWrite_reply (base : Nat) (w : Word) (strb : Strobe) : (windowWrite base w strb s).reply = s.reply := rfl
@[simp] theorem windowWrite_hwResets (base : Nat) (w : Word) (strb : Strobe) : (windowWrite base w strb s).hwResets = s.hwResets := rfl
@[simp] theorem windowWrite_aborted (base : Nat) (w : Word) (strb : Strobe) : (windowWrite base w strb s).aborted = s.aborted := rfl
@[simp] theorem windowWrite_turns (base : Nat) (w : Word) (strb : Strobe) : (windowWrite base w strb s).turns = s.turns := rfl

/-! ### abandonRange -/

@[simp] theorem abandonRange_src (r : Nat × Nat) : (abandonRange r s).src = s.src := rfl
@[simp] theorem abandonRange_dst (r : Nat × Nat) : (abandonRange r s).dst = s.dst := rfl
@[simp] theorem abandonRange_len (r : Nat × Nat) : (abandonRange r s).len = s.len := rfl
@[simp] theorem abandonRange_lcmd (r : Nat × Nat) : (abandonRange r s).lcmd = s.lcmd := rfl
@[simp] theorem abandonRange_lsrc (r : Nat × Nat) : (abandonRange r s).lsrc = s.lsrc := rfl
@[simp] theorem abandonRange_ldst (r : Nat × Nat) : (abandonRange r s).ldst = s.ldst := rfl
@[simp] theorem abandonRange_llen (r : Nat × Nat) : (abandonRange r s).llen = s.llen := rfl
@[simp] theorem abandonRange_busy (r : Nat × Nat) : (abandonRange r s).busy = s.busy := rfl
@[simp] theorem abandonRange_done (r : Nat × Nat) : (abandonRange r s).done = s.done := rfl
@[simp] theorem abandonRange_err (r : Nat × Nat) : (abandonRange r s).err = s.err := rfl
@[simp] theorem abandonRange_padfmt (r : Nat × Nat) : (abandonRange r s).padfmt = s.padfmt := rfl
@[simp] theorem abandonRange_errcode (r : Nat × Nat) : (abandonRange r s).errcode = s.errcode := rfl
@[simp] theorem abandonRange_outlen (r : Nat × Nat) : (abandonRange r s).outlen = s.outlen := rfl
@[simp] theorem abandonRange_intStatus (r : Nat × Nat) : (abandonRange r s).intStatus = s.intStatus := rfl
@[simp] theorem abandonRange_intEnable (r : Nat × Nat) : (abandonRange r s).intEnable = s.intEnable := rfl
@[simp] theorem abandonRange_keyN (r : Nat × Nat) : (abandonRange r s).keyN = s.keyN := rfl
@[simp] theorem abandonRange_keyE (r : Nat × Nat) : (abandonRange r s).keyE = s.keyE := rfl
@[simp] theorem abandonRange_keyD (r : Nat × Nat) : (abandonRange r s).keyD = s.keyD := rfl
@[simp] theorem abandonRange_nb (r : Nat × Nat) : (abandonRange r s).nb = s.nb := rfl
@[simp] theorem abandonRange_keyValid (r : Nat × Nat) : (abandonRange r s).keyValid = s.keyValid := rfl
@[simp] theorem abandonRange_nonce (r : Nat × Nat) : (abandonRange r s).nonce = s.nonce := rfl
@[simp] theorem abandonRange_ctrCount (r : Nat × Nat) : (abandonRange r s).ctrCount = s.ctrCount := rfl
@[simp] theorem abandonRange_ctrOpen (r : Nat × Nat) : (abandonRange r s).ctrOpen = s.ctrOpen := rfl
@[simp] theorem abandonRange_mem (r : Nat × Nat) : (abandonRange r s).mem = memErase s.mem r.1 r.2 := rfl
@[simp] theorem abandonRange_reply (r : Nat × Nat) : (abandonRange r s).reply = s.reply := rfl
@[simp] theorem abandonRange_hwResets (r : Nat × Nat) : (abandonRange r s).hwResets = s.hwResets := rfl
@[simp] theorem abandonRange_aborted (r : Nat × Nat) : (abandonRange r s).aborted = r :: s.aborted := rfl
@[simp] theorem abandonRange_turns (r : Nat × Nat) : (abandonRange r s).turns = s.turns := rfl

/-! ### hardReset -/

@[simp] theorem hardReset_src : (hardReset s).src = 0 := rfl
@[simp] theorem hardReset_dst : (hardReset s).dst = 0 := rfl
@[simp] theorem hardReset_len : (hardReset s).len = 0 := rfl
@[simp] theorem hardReset_lcmd : (hardReset s).lcmd = 0 := rfl
@[simp] theorem hardReset_lsrc : (hardReset s).lsrc = 0 := rfl
@[simp] theorem hardReset_ldst : (hardReset s).ldst = 0 := rfl
@[simp] theorem hardReset_llen : (hardReset s).llen = 0 := rfl
@[simp] theorem hardReset_busy : (hardReset s).busy = false := rfl
@[simp] theorem hardReset_done : (hardReset s).done = false := rfl
@[simp] theorem hardReset_err : (hardReset s).err = false := rfl
@[simp] theorem hardReset_padfmt : (hardReset s).padfmt = false := rfl
@[simp] theorem hardReset_errcode : (hardReset s).errcode = 0 := rfl
@[simp] theorem hardReset_outlen : (hardReset s).outlen = 0 := rfl
@[simp] theorem hardReset_intStatus : (hardReset s).intStatus = 0 := rfl
@[simp] theorem hardReset_intEnable : (hardReset s).intEnable = 0 := rfl
@[simp] theorem hardReset_keyN : (hardReset s).keyN = 0 := rfl
@[simp] theorem hardReset_keyE : (hardReset s).keyE = 0 := rfl
@[simp] theorem hardReset_keyD : (hardReset s).keyD = 0 := rfl
@[simp] theorem hardReset_nb : (hardReset s).nb = 0 := rfl
@[simp] theorem hardReset_keyValid : (hardReset s).keyValid = false := rfl
@[simp] theorem hardReset_nonce : (hardReset s).nonce = 0 := rfl
@[simp] theorem hardReset_ctrCount : (hardReset s).ctrCount = 0 := rfl
@[simp] theorem hardReset_ctrOpen : (hardReset s).ctrOpen = false := rfl
@[simp] theorem hardReset_mem : (hardReset s).mem = [] := rfl
@[simp] theorem hardReset_reply : (hardReset s).reply = none := rfl
@[simp] theorem hardReset_hwResets : (hardReset s).hwResets = s.hwResets + 1 := rfl
@[simp] theorem hardReset_aborted : (hardReset s).aborted = [] := rfl
@[simp] theorem hardReset_turns : (hardReset s).turns = s.turns := rfl

/-! ### softReset -/

@[simp] theorem softReset_src : (softReset s).src = 0 := rfl
@[simp] theorem softReset_dst : (softReset s).dst = 0 := rfl
@[simp] theorem softReset_len : (softReset s).len = 0 := rfl
@[simp] theorem softReset_lcmd : (softReset s).lcmd = 0 := rfl
@[simp] theorem softReset_lsrc : (softReset s).lsrc = 0 := rfl
@[simp] theorem softReset_ldst : (softReset s).ldst = 0 := rfl
@[simp] theorem softReset_llen : (softReset s).llen = 0 := rfl
@[simp] theorem softReset_busy : (softReset s).busy = false := rfl
@[simp] theorem softReset_done : (softReset s).done = false := rfl
@[simp] theorem softReset_err : (softReset s).err = false := rfl
@[simp] theorem softReset_padfmt : (softReset s).padfmt = false := rfl
@[simp] theorem softReset_errcode : (softReset s).errcode = 0 := rfl
@[simp] theorem softReset_outlen : (softReset s).outlen = 0 := rfl
@[simp] theorem softReset_intStatus : (softReset s).intStatus = 0 := rfl
@[simp] theorem softReset_intEnable : (softReset s).intEnable = 0 := rfl
@[simp] theorem softReset_keyN : (softReset s).keyN = 0 := rfl
@[simp] theorem softReset_keyE : (softReset s).keyE = 0 := rfl
@[simp] theorem softReset_keyD : (softReset s).keyD = 0 := rfl
@[simp] theorem softReset_nb : (softReset s).nb = 0 := rfl
@[simp] theorem softReset_keyValid : (softReset s).keyValid = false := rfl
@[simp] theorem softReset_nonce : (softReset s).nonce = 0 := rfl
@[simp] theorem softReset_ctrCount : (softReset s).ctrCount = 0 := rfl
@[simp] theorem softReset_ctrOpen : (softReset s).ctrOpen = false := rfl
@[simp] theorem softReset_mem : (softReset s).mem = (abandonPending s).mem := rfl
@[simp] theorem softReset_reply : (softReset s).reply = none := rfl
@[simp] theorem softReset_hwResets : (softReset s).hwResets = s.hwResets := rfl
@[simp] theorem softReset_aborted : (softReset s).aborted = (abandonPending s).aborted := rfl
@[simp] theorem softReset_turns : (softReset s).turns = s.turns := rfl

end Sys2Proof.Machine
end

