-- ==== Sys2Proof/Laws/Ops.lean ====
section
/-! SUPPORT. What running a command can do (one inversion lemma), and what the engine's accesses to DMEM read and write. -/

namespace Sys2Proof.Machine

/-- The effect of each command when its checks pass. -/
def effectOf (i : Instr) (s : State) : State :=
  match i with
  | .nop => noOut s
  | .setKeys => installKeys s
  | .setNonce => loadNonce s
  | .modexpPub => storeOut (modexpOut s.keyE.toNat s) s
  | .modexpPrv => storeOut (modexpOut s.keyD.toNat s) s
  | .ecbEnc => storeOut (ecbEncOut s) s
  | .ecbDec => { storeOut (ecbDecOut s) s with padfmt := ecbDecBad s }
  | .ctr => ctrEffect (ctrBase .ctr s) s
  | .ctrCont => ctrEffect (ctrBase .ctrCont s) s
  | .montmul => storeOut (montmulOut s) s
  | .barrett => storeOut (barrettOut s) s

theorem exec_eq_settle (i : Instr) (s : State) : exec i s = settle i (effectOf i) s := by
  cases i <;> rfl

theorem exec_of_error {i : Instr} {s : State} {c : ErrorCode} (h : check i s = some c) :
    exec i s = .next (completeError c s) := by
  rw [exec_eq_settle, settle, h]

theorem exec_of_pass {i : Instr} {s : State} (h : check i s = none) :
    exec i s = .next (completeOk (effectOf i s)) := by
  rw [exec_eq_settle, settle, h]

/-- Everything a command can do: the error completion of the first check that holds, or its effect and the successful
completion. -/
theorem exec_cases {i : Instr} {s t : State} (h : exec i s = .next t) :
    (∃ c, check i s = some c ∧ t = completeError c s) ∨ (check i s = none ∧ t = completeOk (effectOf i s)) := by
  cases hc : check i s with
  | some c => rw [exec_of_error hc] at h; cases h; exact .inl ⟨c, rfl, rfl⟩
  | none => rw [exec_of_pass hc] at h; cases h; exact .inr ⟨rfl, rfl⟩

/-- Every command answers a next state. -/
theorem exec_answers (i : Instr) (s : State) : ∃ t, exec i s = .next t := by
  cases hc : check i s with
  | some c => exact ⟨_, exec_of_error hc⟩
  | none => exact ⟨_, exec_of_pass hc⟩

theorem errorValue_ne_zero (c : ErrorCode) : errorValue c ≠ 0 := by cases c <;> decide

theorem errorValue_injective {c d : ErrorCode} (h : errorValue c = errorValue d) : c = d := by
  cases c <;> cases d <;> first | rfl | (exact absurd h (by decide))

/-- A byte of DMEM depends on DMEM and the draws only. -/
theorem dmemByte_congr {s t : State} (hm : t.mem = s.mem) (hh : t.hwResets = s.hwResets) (ha : t.aborted = s.aborted)
    (a : Nat) : dmemByte t a = dmemByte s a := by
  simp only [dmemByte, abortsOver, hm, hh, ha]

theorem readBytes_congr {s t : State} (hm : t.mem = s.mem) (hh : t.hwResets = s.hwResets) (ha : t.aborted = s.aborted)
    (a k : Nat) : readBytes t a k = readBytes s a k := by
  simp only [readBytes, dmemByte_congr hm hh ha]

@[simp] theorem readBytes_length (s : State) (a k : Nat) : (readBytes s a k).length = k := by simp [readBytes]

theorem readBytes_getElem (s : State) (a k i : Nat) (h : i < (readBytes s a k).length) :
    (readBytes s a k)[i] = dmemByte s (a + i) := by
  simp [readBytes]

/-- Equal bytes give equal strings. -/
theorem readBytes_eq_of {s t : State} {a b k : Nat} (h : ∀ i < k, dmemByte t (b + i) = dmemByte s (a + i)) :
    readBytes t b k = readBytes s a k := by
  unfold readBytes
  exact List.map_congr_left (fun i hi => h i (List.mem_range.mp hi))

theorem readBytes_add (s : State) (a j k : Nat) : readBytes s a (j + k) = readBytes s a j ++ readBytes s (a + j) k := by
  simp [readBytes, List.range_add, Function.comp_def, Nat.add_assoc]

/-- A slice of a read string is the string at the slice's address. -/
theorem slice_readBytes (s : State) (a n i k : Nat) (h : i + k ≤ n) :
    slice (readBytes s a n) i (i + k) = readBytes s (a + i) k := by
  obtain ⟨m, rfl⟩ : ∃ m, n = i + (k + m) := ⟨n - (i + k), by omega⟩
  rw [slice, readBytes_add, readBytes_add, List.drop_left' (by simp), Nat.add_sub_cancel_left, List.take_left' (by simp)]

theorem dmemByte_storeOut_outside (out : List Byte) (s : State) (x : Nat)
    (h : ¬(s.ldst.toNat ≤ x ∧ x < s.ldst.toNat + out.length)) : dmemByte (storeOut out s) x = dmemByte s x := by
  simp only [dmemByte, abortsOver, storeOut_mem, storeOut_hwResets, storeOut_aborted, memGet_memWrite_outside _ _ _ _ h]

theorem dmemByte_storeOut_inside (out : List Byte) (s : State) (i : Nat) (h : i < out.length) :
    dmemByte (storeOut out s) (s.ldst.toNat + i) = out[i] := by
  simp only [dmemByte, storeOut_mem]
  rw [memGet_memWrite, dif_pos (by omega)]
  simp

theorem readBytes_storeOut (out : List Byte) (s : State) :
    readBytes (storeOut out s) s.ldst.toNat out.length = out := by
  apply List.ext_getElem
  · simp
  · intro i h1 h2
    rw [readBytes_getElem, dmemByte_storeOut_inside out s i h2]

/-- A string that MemWrite did not touch reads the same. -/
theorem readBytes_storeOut_disjoint (out : List Byte) (s : State) (a k : Nat)
    (h : k = 0 ∨ out.length = 0 ∨ a + k ≤ s.ldst.toNat ∨ s.ldst.toNat + out.length ≤ a) :
    readBytes (storeOut out s) a k = readBytes s a k :=
  readBytes_eq_of (fun i hi => dmemByte_storeOut_outside out s _ (by omega))

end Sys2Proof.Machine
end

