-- ==== Sys2Proof/Laws/Bus.lean ====
section
/-! SUPPORT. What a bus transfer can do to the machine: one inversion lemma for the address map and one for the access. -/

namespace Sys2Proof.Machine

theorem regAt_eq_reg {n : Nat} {r : Reg} (h : regAt n = .reg r) : n = regOffset r := by
  unfold regAt at h
  split at h <;> first | (cases h; rfl) | cases h

theorem regAt_ne_window (n base : Nat) : regAt n ≠ .window base := by
  unfold regAt
  split <;> simp

theorem regAt_ne_region (n : Nat) : regAt n ≠ .reservedRegion := by
  unfold regAt
  split <;> simp

theorem regAt_offset (r : Reg) : regAt (regOffset r) = .reg r := by cases r <;> rfl

/-- A register is reached at its own offset only (R32, R82). -/
theorem targetOf_reg {a : BusAddr} {r : Reg} : targetOf a = .reg r ↔ a.toNat = regOffset r := by
  constructor
  · intro h
    unfold targetOf at h
    split at h
    · exact regAt_eq_reg h
    · split at h <;> cases h
  · intro h
    have : regOffset r < 0x1000 := by cases r <;> decide
    rw [targetOf, if_pos (by omega), h, regAt_offset]

/-- The window is the upper half of the bus space (R82, R83). -/
theorem targetOf_window {a : BusAddr} {base : Nat} :
    targetOf a = .window base ↔ 0x10000 ≤ a.toNat ∧ base = a.toNat - 0x10000 := by
  unfold targetOf
  split
  · constructor
    · intro h; exact absurd h (regAt_ne_window _ _)
    · omega
  · split
    · constructor
      · intro h; cases h
      · omega
    · constructor
      · intro h; exact ⟨by omega, (Target.window.inj h).symm⟩
      · intro h; rw [h.2]

/-- Everything one transfer can do to the machine, apart from the port's answer. -/
inductive HostEffect (x : Transfer) (s : State) : State → Prop where
  | unchanged : HostEffect x s s
  | accessEvent : s.busy = true → 0x10000 ≤ x.addr.toNat → HostEffect x s (raiseEvents accessEv s)
  | overrun : s.busy = true → x.write = true → x.addr.toNat = 0x00C → HostEffect x s (raiseEvents overrunEv s)
  | start : s.busy = false → x.write = true → x.addr.toNat = 0x00C → HostEffect x s (startCommand x.data s)
  | reset : isSoftReset x = true → HostEffect x s (softReset s)
  | writeSrc : x.write = true → x.addr.toNat = 0x018 → HostEffect x s { s with src := x.data }
  | writeDst : x.write = true → x.addr.toNat = 0x01C → HostEffect x s { s with dst := x.data }
  | writeLen : x.write = true → x.addr.toNat = 0x020 → HostEffect x s { s with len := x.data }
  | clear : x.write = true → x.addr.toNat = 0x030 → x.strobe = 0b1111 →
      HostEffect x s (clearEvents (x.data.setWidth 4) s)
  | enable : x.write = true → x.addr.toNat = 0x034 → HostEffect x s { s with intEnable := x.data.setWidth 4 }
  | store : s.busy = false → x.write = true → 0x10000 ≤ x.addr.toNat → x.addr.toNat % 4 = 0 →
      HostEffect x s (windowWrite (x.addr.toNat - 0x10000) x.data x.strobe s)

theorem writeReg_effect (x : Transfer) (s : State) (r : Reg) (hw : x.write = true) (ha : x.addr.toNat = regOffset r)
    (hs : x.strobe = 0b1111) : HostEffect x s (writeReg r x.data s) := by
  cases r
  case ctrl =>
    simp only [writeReg, writeCtrl]
    split
    · rename_i hd
      refine .reset ?_
      have ha' : x.addr = 0x008 := BitVec.eq_of_toNat_eq (by rw [ha]; rfl)
      rw [isSoftReset, hw, ha', hs, hd]
      rfl
    · exact .unchanged
  case cmd =>
    simp only [writeReg, writeCmd]
    split
    · rename_i hb; exact .overrun hb hw ha
    · rename_i hb; exact .start (by simpa using hb) hw ha
  case src => exact .writeSrc hw ha
  case dst => exact .writeDst hw ha
  case len => exact .writeLen hw ha
  case intStatus => exact .clear hw ha hs
  case intEnable => exact .enable hw ha
  all_goals exact .unchanged

/-- A transfer records the port's answer and has one of the effects above. -/
theorem busAccess_cases (x : Transfer) (s : State) : ∃ r u, busAccess x s = answer r u ∧ HostEffect x s u := by
  unfold busAccess
  split
  · split <;> exact ⟨_, _, rfl, .unchanged⟩
  · rename_i hal
    split
    · rename_i hw
      unfold busWrite
      split
      · rename_i r ht
        split
        · rename_i hs; exact ⟨_, _, rfl, writeReg_effect x s r hw (targetOf_reg.mp ht) hs⟩
        · exact ⟨_, _, rfl, .unchanged⟩
      · exact ⟨_, _, rfl, .unchanged⟩
      · exact ⟨_, _, rfl, .unchanged⟩
      · rename_i base ht
        have hwin := targetOf_window.mp ht
        rw [hwin.2]
        split
        · rename_i hb; exact ⟨_, _, rfl, .accessEvent hb hwin.1⟩
        · rename_i hb
          refine ⟨_, _, rfl, .store (by simpa using hb) hw hwin.1 ?_⟩
          simpa [misaligned] using hal
    · unfold busRead
      split
      · exact ⟨_, _, rfl, .unchanged⟩
      · exact ⟨_, _, rfl, .unchanged⟩
      · exact ⟨_, _, rfl, .unchanged⟩
      · rename_i base ht
        split
        · rename_i hb; exact ⟨_, _, rfl, .accessEvent hb (targetOf_window.mp ht).1⟩
        · exact ⟨_, _, rfl, .unchanged⟩

/-- A full-strobe write of a register: the answer is OKAY and the register's write effect is taken. -/
theorem busAccess_writeReg (r : Reg) (w : Word) (s : State) :
    busAccess ⟨true, BitVec.ofNat 17 (regOffset r), w, 0b1111⟩ s = answer (.write false) (writeReg r w s) := by
  have ht : targetOf (BitVec.ofNat 17 (regOffset r)) = .reg r := targetOf_reg.mpr (by cases r <;> rfl)
  have hm : misaligned (BitVec.ofNat 17 (regOffset r)) = false := by cases r <;> rfl
  simp only [busAccess, hm, Bool.false_eq_true, if_false, if_true, busWrite, ht]

/-- A read of a register, whatever its strobes. -/
theorem busAccess_readReg (r : Reg) (w : Word) (strb : Strobe) (s : State) :
    busAccess ⟨false, BitVec.ofNat 17 (regOffset r), w, strb⟩ s = answer (.read (readReg r s) false) s := by
  have ht : targetOf (BitVec.ofNat 17 (regOffset r)) = .reg r := targetOf_reg.mpr (by cases r <;> rfl)
  have hm : misaligned (BitVec.ofNat 17 (regOffset r)) = false := by cases r <;> rfl
  simp only [busAccess, hm, Bool.false_eq_true, if_false, busRead, ht]

/-- What a byte holds after a window write: its lane if it is one of the four and its strobe is set. -/
theorem memGet_windowLanes (base : Nat) (w : Word) (strb : Strobe) (m : Memory) (a : Nat) :
    memGet ([0, 1, 2, 3].foldl (writeLane base w strb) m) a =
      if base ≤ a ∧ a < base + 4 ∧ strb.getLsbD (a - base) = true then some (lane w (a - base)) else memGet m a := by
  have hstep : ∀ (m : Memory) (i : Nat), memGet (writeLane base w strb m i) a =
      if a = base + i ∧ strb.getLsbD i = true then some (lane w i) else memGet m a := by
    intro m i
    unfold writeLane
    split
    · rw [memGet_memSet]; simp [*]
    · simp [*]
  simp only [List.foldl_cons, List.foldl_nil, hstep]
  by_cases h : base ≤ a ∧ a < base + 4
  · obtain ⟨i, hi, rfl⟩ : ∃ i, i < 4 ∧ a = base + i := ⟨a - base, by omega, by omega⟩
    interval_cases i <;> simp
  · rw [if_neg (by omega), if_neg (by omega), if_neg (by omega), if_neg (by omega), if_neg (by tauto)]

theorem windowLanes_wf (base : Nat) (w : Word) (strb : Strobe) (m : Memory) (h : m.wf)
    (hb : base + 4 ≤ Config.dmemSize) : ([0, 1, 2, 3].foldl (writeLane base w strb) m).wf := by
  have hstep : ∀ (m : Memory) (i : Nat), i < 4 → m.wf → (writeLane base w strb m i).wf := by
    intro m i hi hm
    unfold writeLane
    split
    · exact memSet_wf _ _ _ hm (by omega)
    · exact hm
  simp only [List.foldl_cons, List.foldl_nil]
  exact hstep _ 3 (by omega) (hstep _ 2 (by omega) (hstep _ 1 (by omega) (hstep _ 0 (by omega) h)))

end Sys2Proof.Machine
end

