-- ==== Sys2Proof/Laws/Checks.lean ====
section
/-! SUPPORT. The checks of 60_exceptions.md R262, command by command, are the lists of the command rules; and what it says
that none of them holds. -/

namespace Sys2Proof.Machine

theorem inDmem_iff (a k : Nat) : inDmem a k = true ↔ InDmem a k := by
  simp only [inDmem, Bool.or_eq_true, beq_iff_eq, decide_eq_true_eq]
  rfl

theorem rangesOverlap_iff (a j b k : Nat) : rangesOverlap a j b k = true ↔ Overlap a j b k := by
  simp [rangesOverlap, Overlap, Nat.pos_iff_ne_zero, and_assoc]

theorem no_overlap_zero (a j b : Nat) : ¬Overlap a j b 0 := by
  rintro ⟨_, h, _⟩
  exact absurd h (by omega)

theorem modUsable_iff (s : State) : modUsable s = true ↔ s.keyN.toNat % 2 = 1 ∧ 3 ≤ s.keyN.toNat := by
  simp [modUsable]

theorem not_modUsable_iff (s : State) : (!modUsable s) = true ↔ s.keyN.toNat % 2 = 0 ∨ s.keyN.toNat < 3 := by
  rw [Bool.not_eq_true', ← Bool.not_eq_true, modUsable_iff]
  omega

theorem overlapForbidden_iff (i : Instr) (s : State) :
    overlapForbidden i s = true ↔
      Overlap s.lsrc.toNat (inLen i s) s.ldst.toNat (outMax i s) ∧ ¬(i ≠ .ecbEnc ∧ s.ldst = s.lsrc) := by
  rw [overlapForbidden, Bool.and_eq_true, rangesOverlap_iff]
  simp only [Bool.not_eq_true', Bool.and_eq_false_iff, beq_eq_false_iff_ne, bne_eq_false_iff_eq]
  tauto

/-- The list of R262 with its conditions written out. -/
theorem check_eq (i : Instr) (s : State) :
    check i s =
      if keyUsing i = true ∧ s.keyValid = false then some .keyNotConfigured
      else if keyUsing i = true ∧ (s.keyN.toNat % 2 = 0 ∨ s.keyN.toNat < 3) then some .modUnsupported
      else if (i = .ecbEnc ∨ i = .ecbDec) ∧ s.nb.toNat < 3 then some .blockSize
      else if (i = .setKeys ∨ i = .setNonce) ∧ (s.llen.toNat = 0 ∨ 512 < s.llen.toNat) then some .lenInvalid
      else if i = .ecbDec ∧ s.llen.toNat % s.nb.toNat ≠ 0 then some .lenInvalid
      else if i = .ctrCont ∧ s.ctrOpen = false then some .ctrAlign
      else if (i = .ctr ∨ i = .ctrCont) ∧ 4294967295 < ctrBase i s + ctrBlocks s then some .ctrExhausted
      else if ¬InDmem s.lsrc.toNat (inLen i s) ∨ ¬InDmem s.ldst.toNat (outMax i s) then some .dmemRange
      else if Overlap s.lsrc.toNat (inLen i s) s.ldst.toNat (outMax i s) ∧ ¬(i ≠ .ecbEnc ∧ s.ldst = s.lsrc) then
        some .overlap
      else none := by
  have hl : (!loadLenOk s) = true ↔ s.llen.toNat = 0 ∨ 512 < s.llen.toNat := by
    rw [Bool.not_eq_true', ← Bool.not_eq_true]
    simp only [loadLenOk, Bool.and_eq_true, decide_eq_true_eq]
    simp only [Config.maxBytes]
    omega
  have hr : (!inDmem s.lsrc.toNat (inLen i s) || !inDmem s.ldst.toNat (outMax i s)) = true ↔
      ¬InDmem s.lsrc.toNat (inLen i s) ∨ ¬InDmem s.ldst.toNat (outMax i s) := by
    rw [Bool.or_eq_true, Bool.not_eq_true', Bool.not_eq_true', ← Bool.not_eq_true, ← Bool.not_eq_true, inDmem_iff,
      inDmem_iff]
  have hm : modUsable s = false ↔ s.keyN.toNat % 2 = 0 ∨ s.keyN.toNat < 3 := by
    rw [← Bool.not_eq_true', not_modUsable_iff]
  simp only [check, Bool.and_eq_true, hl, hr, isEcb, isLoad, isCtr, Bool.or_eq_true, beq_iff_eq, decide_eq_true_eq,
    bne_iff_ne, overlapForbidden_iff]
  simp only [Bool.not_eq_true', hm]
  rfl

section
variable (s : State)

theorem check_nop : check .nop s = none := by
  rw [check_eq]
  simp [keyUsing, inLen, outMax]

theorem check_setKeys : check .setKeys s = loadChecks 3 s := by
  rw [check_eq]
  simp [keyUsing, inLen, outMax, loadChecks, no_overlap_zero]

theorem check_setNonce : check .setNonce s = loadChecks 1 s := by
  rw [check_eq]
  simp [keyUsing, inLen, outMax, loadChecks, no_overlap_zero]

theorem check_modexpPub : check .modexpPub s = arithChecks 1 s := by
  rw [check_eq]
  simp [keyUsing, inLen, outMax, arithChecks, keyChecks, rangeChecks, blockLen]

theorem check_modexpPrv : check .modexpPrv s = arithChecks 1 s := by
  rw [check_eq]
  simp [keyUsing, inLen, outMax, arithChecks, keyChecks, rangeChecks, blockLen]

theorem check_montmul : check .montmul s = arithChecks 2 s := by
  rw [check_eq]
  simp [keyUsing, inLen, outMax, arithChecks, keyChecks, rangeChecks, blockLen]

theorem check_barrett : check .barrett s = arithChecks 2 s := by
  rw [check_eq]
  simp [keyUsing, inLen, outMax, arithChecks, keyChecks, rangeChecks, blockLen]

theorem check_ecbEnc : check .ecbEnc s = ecbEncChecks s := by
  rw [check_eq]
  simp [keyUsing, inLen, outMax, ecbEncChecks, keyChecks, rangeChecks, blockLen, chunkLen, Config.padLen]

theorem check_ecbDec : check .ecbDec s = ecbDecChecks s := by
  rw [check_eq]
  simp [keyUsing, inLen, outMax, ecbDecChecks, keyChecks, rangeChecks, blockLen, chunkLen, Config.padLen]

theorem check_ctr : check .ctr s = ctrChecks false s := by
  rw [check_eq]
  simp [keyUsing, inLen, outMax, ctrChecks, keyChecks, rangeChecks, blockLen, ctrBase, ctrBlocks]

theorem check_ctrCont : check .ctrCont s = ctrChecks true s := by
  rw [check_eq]
  simp [keyUsing, inLen, outMax, ctrChecks, keyChecks, rangeChecks, blockLen, ctrBase, ctrBlocks]

end

/-- One check of a list passes and so do the others. -/
theorem check_step {c : Prop} [Decidable c] {e : ErrorCode} {rest : Option ErrorCode} :
    (if c then some e else rest) = none ↔ ¬c ∧ rest = none := by
  split <;> simp [*]

/-- What a passed check list says of every command's ranges and, for a key-using one, of the key. -/
theorem check_none {i : Instr} {s : State} (h : check i s = none) :
    InDmem s.lsrc.toNat (inLen i s) ∧ InDmem s.ldst.toNat (outMax i s) ∧
    (Overlap s.lsrc.toNat (inLen i s) s.ldst.toNat (outMax i s) → i ≠ .ecbEnc ∧ s.ldst = s.lsrc) ∧
    (keyUsing i = true → s.keyValid = true ∧ s.keyN.toNat % 2 = 1 ∧ 3 ≤ s.keyN.toNat) := by
  rw [check_eq] at h
  simp only [check_step] at h
  obtain ⟨h1, h2, -, -, -, -, -, h8, h9, -⟩ := h
  refine ⟨by tauto, by tauto, by tauto, fun hk => ?_⟩
  have hv : s.keyValid = true := by
    cases hv : s.keyValid
    · exact absurd ⟨hk, hv⟩ h1
    · rfl
  have hn : ¬(s.keyN.toNat % 2 = 0 ∨ s.keyN.toNat < 3) := fun hn => h2 ⟨hk, hn⟩
  exact ⟨hv, by omega, by omega⟩

end Sys2Proof.Machine
end

