-- ==== Sys2Proof/Laws/Outputs.lean ====
section
/-! SUPPORT. The byte string each command writes: its length, and its value in the terms of the command's rule. -/

namespace Sys2Proof.Machine

/-- What a command writes at LDST when its checks pass. -/
def outputOf (i : Instr) (s : State) : List Byte :=
  match i with
  | .nop => []
  | .setKeys => []
  | .setNonce => []
  | .modexpPub => modexpOut s.keyE.toNat s
  | .modexpPrv => modexpOut s.keyD.toNat s
  | .ecbEnc => ecbEncOut s
  | .ecbDec => ecbDecOut s
  | .ctr => ctrOut (ctrBase .ctr s) s
  | .ctrCont => ctrOut (ctrBase .ctrCont s) s
  | .montmul => montmulOut s
  | .barrett => barrettOut s

section
variable (s : State)

@[simp] theorem modexpOut_length (k : Nat) : (modexpOut k s).length = s.nb.toNat := by simp [modexpOut, blockLen]

@[simp] theorem montmulOut_length : (montmulOut s).length = s.nb.toNat := by simp [montmulOut, blockLen]

@[simp] theorem barrettOut_length : (barrettOut s).length = s.nb.toNat := by simp [barrettOut, blockLen]

@[simp] theorem keystream_length (i : Nat) : (keystream s i).length = s.nb.toNat := by simp [keystream, blockLen]

@[simp] theorem ecbEncBlock_length (j : Nat) : (ecbEncBlock s j).length = s.nb.toNat := by simp [ecbEncBlock, blockLen]

@[simp] theorem ecbDecBuffer_length (j : Nat) : (ecbDecBuffer s j).length = s.nb.toNat := by
  simp [ecbDecBuffer, blockLen]

/-- R205. -/
theorem ecbEncOut_length : (ecbEncOut s).length = ceilDiv s.llen.toNat (chunkLen s) * s.nb.toNat :=
  concatBlocks_length _ _ _ (fun j _ => ecbEncBlock_length s j)

theorem unframe_length_le (nb : Nat) (b : List Byte) : (unframe nb b).1.length ≤ nb - Config.padLen := by
  simp only [unframe]
  split
  · simp only [slice_length]; omega
  · exact Nat.zero_le _

theorem concatBlocks_length_le (n k : Nat) (f : Nat → List Byte) (h : ∀ j < n, (f j).length ≤ k) :
    (concatBlocks n f).length ≤ n * k := by
  induction n with
  | zero => simp
  | succ n ih =>
    rw [concatBlocks_succ, List.length_append, Nat.succ_mul]
    exact Nat.add_le_add (ih (fun j hj => h j (by omega))) (h n (by omega))

/-- The plaintext of ECB_DEC is no longer than its OUTMAX. -/
theorem ecbDecOut_length_le : (ecbDecOut s).length ≤ s.llen.toNat / blockLen s * chunkLen s :=
  concatBlocks_length_le _ _ _ (fun _ _ => unframe_length_le _ _)

theorem ctrBlock_length (base j : Nat) :
    (ctrBlock base s j).length =
      (slice (readBytes s s.lsrc.toNat s.llen.toNat) (j * blockLen s) ((j + 1) * blockLen s)).length := by
  rw [ctrBlock, xorBytes_length, keystream_length, slice_length, Nat.succ_mul]
  unfold blockLen
  omega

theorem concatBlocks_length_congr (n : Nat) (f g : Nat → List Byte) (h : ∀ j, (f j).length = (g j).length) :
    (concatBlocks n f).length = (concatBlocks n g).length := by
  induction n with
  | zero => rfl
  | succ n ih => rw [concatBlocks_succ, concatBlocks_succ, List.length_append, List.length_append, ih, h]

theorem ctrOut_length_eq_min (base : Nat) :
    (ctrOut base s).length = min (ctrBlocks s * blockLen s) s.llen.toNat := by
  rw [ctrOut, concatBlocks_length_congr _ _ _ (ctrBlock_length s base), concatBlocks_slice_take]
  simp

theorem ctrOut_length_le (base : Nat) : (ctrOut base s).length ≤ s.llen.toNat := by
  rw [ctrOut_length_eq_min]; exact Nat.min_le_right _ _

/-- The output of CTR is as long as its input, for any nonzero block size. -/
theorem ctrOut_length (base : Nat) (h : 0 < s.nb.toNat) : (ctrOut base s).length = s.llen.toNat := by
  rw [ctrOut_length_eq_min]
  exact Nat.min_eq_right (ceilDiv_mul_ge _ _ h)

theorem outputOf_length_le (i : Instr) : (outputOf i s).length ≤ outMax i s := by
  cases i <;> simp only [outputOf, outMax]
  case nop => simp
  case setKeys => simp
  case setNonce => simp
  case modexpPub => simp [blockLen]
  case modexpPrv => simp [blockLen]
  case ecbEnc => rw [ecbEncOut_length]; rfl
  case ecbDec => exact ecbDecOut_length_le s
  case ctr => exact ctrOut_length_le s _
  case ctrCont => exact ctrOut_length_le s _
  case montmul => simp [blockLen]
  case barrett => simp [blockLen]

/-- MODEXP's output is x^k mod N as NB bytes (R172, R173). -/
theorem modexpOut_eq (k : Nat) :
    modexpOut k s = i2be (be (readBytes s s.lsrc.toNat s.nb.toNat) ^ k % s.keyN.toNat) s.nb.toNat := by
  rw [modexpOut, modExp_eq]; rfl

/-- Keystream block i is (NONCE + i)^E mod N as NB bytes (R231). -/
theorem keystream_eq (i : Nat) :
    keystream s i = i2be ((s.nonce.toNat + i) ^ s.keyE.toNat % s.keyN.toNat) s.nb.toNat := by
  rw [keystream, modExp_eq]; rfl

/-- BARRETT's output is x mod N as NB bytes (R178). -/
theorem barrettOut_eq :
    barrettOut s = i2be (be (readBytes s s.lsrc.toNat (2 * s.nb.toNat)) % s.keyN.toNat) s.nb.toNat := rfl

end

/-- DMEM and OUTLEN after any command's effect: its output at LDST. -/
theorem effectOf_mem (i : Instr) (s : State) : (effectOf i s).mem = memWrite s.mem s.ldst.toNat (outputOf i s) := by
  cases i <;> rfl

theorem effectOf_outlen (i : Instr) (s : State) :
    (effectOf i s).outlen = BitVec.ofNat 32 (outputOf i s).length := by
  cases i <;> rfl

/-- The fields no command's effect writes. -/
theorem effectOf_frame (i : Instr) (s : State) :
    SameHostSide s (effectOf i s) ∧ (effectOf i s).busy = s.busy ∧ (effectOf i s).done = s.done ∧
    (effectOf i s).err = s.err ∧ (effectOf i s).errcode = s.errcode ∧ (effectOf i s).intStatus = s.intStatus := by
  cases i <;> exact ⟨⟨rfl, rfl, rfl, rfl, rfl, rfl, rfl, rfl, rfl, rfl, rfl, rfl⟩, rfl, rfl, rfl, rfl, rfl⟩

/-- A command whose checks pass keeps the canonical form of DMEM. -/
theorem effectOf_mem_wf {i : Instr} {s : State} (h : check i s = none) (hw : s.mem.wf) : (effectOf i s).mem.wf := by
  rw [effectOf_mem]
  refine memWrite_wf _ _ _ hw ?_
  have hout := (check_none h).2.1
  have hle := outputOf_length_le s i
  rw [show Config.dmemSize = 65536 from rfl]
  rcases hout with h0 | h0
  · exact .inl (List.length_eq_zero_iff.mp (by omega))
  · exact .inr (by omega)

/-- The length of the output fits OUTLEN when the checks pass. -/
theorem outputOf_length_le_dmem {i : Instr} {s : State} (h : check i s = none) : (outputOf i s).length ≤ 65536 := by
  have hout := (check_none h).2.1
  have hle := outputOf_length_le s i
  omega

/-- The output stands at LDST, OUTLEN says how long it is, and no other byte changed. -/
theorem output_of_pass {i : Instr} {s : State} (h : check i s = none) :
    OutputIs (outputOf i s) s (completeOk (effectOf i s)) := by
  have hm : (completeOk (effectOf i s)).mem = (storeOut (outputOf i s) s).mem := effectOf_mem i s
  have hf := (effectOf_frame i s).1
  have hh : (completeOk (effectOf i s)).hwResets = (storeOut (outputOf i s) s).hwResets := hf.2.2.2.2.2.2.2.2.2.1
  have ha : (completeOk (effectOf i s)).aborted = (storeOut (outputOf i s) s).aborted := hf.2.2.2.2.2.2.2.2.2.2.1
  refine ⟨?_, ?_, fun x hx => ?_⟩
  · rw [readBytes_congr hm hh ha, readBytes_storeOut]
  · have := outputOf_length_le_dmem h
    rw [completeOk_outlen, effectOf_outlen, BitVec.toNat_ofNat, Nat.mod_eq_of_lt (by omega)]
  · rw [dmemByte_congr hm hh ha, dmemByte_storeOut_outside _ _ _ hx]

end Sys2Proof.Machine
end

