-- ==== Sys2Proof/Laws/Engine.lean ====
section
/-! SUPPORT. What one step can do: the inversion lemma of `step`, over the turns and the two agents. -/

namespace Sys2Proof.Machine

/-- Everything the engine can do to a machine with a pending command. -/
inductive EngineEffect (s : State) : State → Prop where
  | illegal (why : IllegalWord) : decode s.lcmd = .illegal why → EngineEffect s (completeError .illegalCmd s)
  | error (i : Instr) (c : ErrorCode) : decode s.lcmd = .command i → check i s = some c →
      EngineEffect s (completeError c s)
  | done (i : Instr) : decode s.lcmd = .command i → check i s = none → EngineEffect s (completeOk (effectOf i s))

theorem runPending_cases {s t : State} (h : runPending s = .next t) : EngineEffect s t := by
  unfold runPending at h
  split at h
  · rename_i why hd; cases h; exact .illegal why hd
  · rename_i i hd
    rcases exec_cases h with ⟨c, hc, rfl⟩ | ⟨hc, rfl⟩
    · exact .error i c hd hc
    · exact .done i hd hc

theorem runPending_answers (s : State) : ∃ t, runPending s = .next t := by
  unfold runPending
  split
  · exact ⟨_, rfl⟩
  · exact exec_answers _ _

theorem engineStep_cases {s t : State} (h : engineStep s = .next t) :
    (s.busy = false ∧ t = s) ∨ (s.busy = true ∧ EngineEffect s t) := by
  unfold engineStep at h
  split at h
  · rename_i hb; exact .inr ⟨hb, runPending_cases h⟩
  · rename_i hb; cases h; exact .inl ⟨by simpa using hb, rfl⟩

theorem engineStep_answers (s : State) : ∃ t, engineStep s = .next t := by
  unfold engineStep
  split
  · exact runPending_answers s
  · exact ⟨_, rfl⟩

/-- Every step answers a next state: EMRSA has no fault and no refusal. -/
theorem step_answers (s : State) : ∃ t, step s = .next t := by
  unfold step nextTurn
  split
  · exact engineStep_answers s
  · rename_i tn rest _
    cases tn with
    | host x => exact ⟨_, rfl⟩
    | engine => exact engineStep_answers _
    | hostAndEngine x =>
      simp only [takeTurn, sameCycle]
      split
      · exact engineStep_answers _
      · exact ⟨_, rfl⟩
    | hardReset => exact ⟨_, rfl⟩

/-- The state a turn acts on: the turn is taken off the input. -/
def popTurn (s : State) : State := { s with turns := s.turns.tail }

/-- Everything a step can do, by the turn it takes. -/
theorem step_cases {s t : State} (h : step s = .next t) :
    (s.turns = [] ∧ engineStep s = .next t) ∨
    (s.turns.head? = some .engine ∧ engineStep (popTurn s) = .next t) ∨
    (∃ x, s.turns.head? = some (.host x) ∧ t = busAccess x (popTurn s)) ∨
    (∃ x, s.turns.head? = some (.hostAndEngine x) ∧ s.busy = false ∧ t = busAccess x (popTurn s)) ∨
    (∃ x, s.turns.head? = some (.hostAndEngine x) ∧ s.busy = true ∧ engineStep (busAccess x (popTurn s)) = .next t) ∨
    (s.turns.head? = some .hardReset ∧ t = hardReset (popTurn s)) := by
  unfold step nextTurn at h
  split at h
  · rename_i ht; exact .inl ⟨ht, h⟩
  · rename_i tn rest ht
    have hp : { s with turns := rest } = popTurn s := by rw [popTurn, ht]; rfl
    have hh : s.turns.head? = some tn := by rw [ht]; rfl
    rw [hp] at h
    rw [hh]
    cases tn with
    | host x => simp only [takeTurn] at h; cases h; exact .inr (.inr (.inl ⟨x, rfl, rfl⟩))
    | engine => exact .inr (.inl ⟨rfl, h⟩)
    | hostAndEngine x =>
      simp only [takeTurn, sameCycle] at h
      split at h
      · rename_i hb; exact .inr (.inr (.inr (.inr (.inl ⟨x, rfl, hb, h⟩))))
      · rename_i hb; cases h; exact .inr (.inr (.inr (.inl ⟨x, rfl, Bool.not_eq_true _ ▸ hb, rfl⟩)))
    | hardReset => simp only [takeTurn] at h; cases h; exact .inr (.inr (.inr (.inr (.inr ⟨rfl, rfl⟩))))

end Sys2Proof.Machine
end

