-- ==== Sys2Proof/Laws/PerInstr.lean ====
section
/-! SUPPORT. The statement made of every command as syntax, one lemma per constructor of Instr. -/

namespace Sys2Proof.Laws.Legal

/-- The command is well formed and its word is legal, sets CONT only as CTR.CONT, and disassembles to its mnemonic
(30_encoding.md R122, R125, R131). -/
def Statement (i : Instr) : Prop :=
  i.wellFormed = true ∧ legalWord (encode i) = true ∧ (contField (encode i) = true ↔ i = .ctrCont) ∧
    disassemble (encode i) = mnemonic i

theorem nop : Statement .nop := ⟨rfl, by decide, by decide, by decide⟩
theorem setKeys : Statement .setKeys := ⟨rfl, by decide, by decide, by decide⟩
theorem setNonce : Statement .setNonce := ⟨rfl, by decide, by decide, by decide⟩
theorem modexpPub : Statement .modexpPub := ⟨rfl, by decide, by decide, by decide⟩
theorem modexpPrv : Statement .modexpPrv := ⟨rfl, by decide, by decide, by decide⟩
theorem ecbEnc : Statement .ecbEnc := ⟨rfl, by decide, by decide, by decide⟩
theorem ecbDec : Statement .ecbDec := ⟨rfl, by decide, by decide, by decide⟩
theorem ctr : Statement .ctr := ⟨rfl, by decide, by decide, by decide⟩
theorem ctrCont : Statement .ctrCont := ⟨rfl, by decide, by decide, by decide⟩
theorem montmul : Statement .montmul := ⟨rfl, by decide, by decide, by decide⟩
theorem barrett : Statement .barrett := ⟨rfl, by decide, by decide, by decide⟩

end Sys2Proof.Laws.Legal
end

