-- ==== Sys2Proof/Tests/Slice0.lean ====
section
/-! SUPPORT. The model's own tests: ill-formed words refused, words written out from the encoding table, one-step tests whose
expected values are the vectors of 95_test_vectors.md (named in each comment), and for every statement with hypotheses a state
that meets them. -/

namespace Sys2Proof.Tests

open Sys2Proof.Machine

-- One test at a time: many kernel evaluations at once need a thread and a stack each.
set_option Elab.async false

/-! ### Words -/

/-- R125, second case: RSVD bit 5, and RSVD bit 31 (vectors E1, E5). -/
theorem test_ill_formed_reserved_bits :
    rsvdClear 0x00000025 = false ∧ legalWord 0x00000025 = false ∧ decode 0x00000025 = .illegal .reservedBits ∧
    decode 0x80000003 = .illegal .reservedBits := by decide

/-- R125, third case: CONT with ECB_ENC and with MODEXP_PUB (E4, E6). -/
theorem test_ill_formed_cont :
    contAllowed 0x00000015 = false ∧ legalWord 0x00000015 = false ∧ decode 0x00000015 = .illegal .contWithoutCtr ∧
    decode 0x00000013 = .illegal .contWithoutCtr := by decide

/-- R125, first case: OP 0xA and 0xF (E2, E3). -/
theorem test_ill_formed_op :
    opAssigned 0x0000000A = false ∧ legalWord 0x0000000A = false ∧ decode 0x0000000A = .illegal .reservedOp ∧
    decode 0x0000000F = .illegal .reservedOp := by decide

/-- R122, the words bit by bit: RSVD 27 bits, CONT, OP. -/
theorem test_words_key_engine :
    decode 0b000000000000000000000000000_0_0000 = .command .nop ∧
    decode 0b000000000000000000000000000_0_0001 = .command .setKeys := by decide

theorem test_words_modexp_arith :
    decode 0b000000000000000000000000000_0_0011 = .command .modexpPub ∧
    decode 0b000000000000000000000000000_0_0100 = .command .modexpPrv ∧
    decode 0b000000000000000000000000000_0_1000 = .command .montmul ∧
    decode 0b000000000000000000000000000_0_1001 = .command .barrett := by decide

theorem test_words_ecb :
    decode 0b000000000000000000000000000_0_0101 = .command .ecbEnc ∧
    decode 0b000000000000000000000000000_0_0110 = .command .ecbDec := by decide

theorem test_words_ctr :
    decode 0b000000000000000000000000000_0_0010 = .command .setNonce ∧
    decode 0b000000000000000000000000000_0_0111 = .command .ctr ∧
    decode 0b000000000000000000000000000_1_0111 = .command .ctrCont := by decide

/-- The host's reading of a table row. -/
theorem test_decodeTableWord :
    decodeTableWord 32 0x17 = some .ctrCont ∧ decodeTableWord 32 0x09 = some .barrett ∧ decodeTableWord 32 0x18 = none := by
  decide

/-- R131. -/
theorem test_disassemble :
    disassemble 0x00000017 = "CTR.CONT" ∧ disassemble 0x000000AF = ".word 0x000000AF" := by decide

/-! ### Small states -/

/-- A state's successor by one command. -/
def after (i : Instr) (s : State) : State :=
  match exec i s with
  | .next t => t
  | .fault _ => s
  | .refused _ => s

theorem exec_after (i : Instr) (s : State) : exec i s = .next (after i s) := by
  obtain ⟨t, h⟩ := exec_answers i s
  rw [after, h]

/-- The state one step later. -/
def stepped (s : State) : State :=
  match step s with
  | .next t => t
  | .fault _ => s
  | .refused _ => s

theorem step_stepped (s : State) : step s = .next (stepped s) := by
  obtain ⟨t, h⟩ := step_answers s
  rw [stepped, h]

/-- A pending command over a key, with latched operands and input bytes at LSRC. -/
def pending (w n e d nb src dst len : Nat) (input : List Byte) : State :=
  { State.reset with
    keyN := BitVec.ofNat 4096 n, keyE := BitVec.ofNat 4096 e, keyD := BitVec.ofNat 4096 d, nb := BitVec.ofNat 10 nb,
    keyValid := true, lcmd := BitVec.ofNat 32 w, lsrc := BitVec.ofNat 32 src, ldst := BitVec.ofNat 32 dst,
    llen := BitVec.ofNat 32 len, busy := true, mem := memWrite [] src input }

/-- A pending command over the key K0 (53 * 61). -/
def k0 (w src dst len : Nat) (input : List Byte) : State := pending w 0x0CA1 0x0011 0x019D 2 src dst len input

/-- A pending command over the key K1. -/
def k1 (w src dst len : Nat) (input : List Byte) : State := pending w 0xFFE000FF 0x8003 0x2838B67B 4 src dst len input

/-- A pending command over the key K2. -/
def k2 (w src dst len : Nat) (input : List Byte) : State := pending w 0xFF800F 0x805 0x7C4455 3 src dst len input

/-- A pending command with no key. -/
def unkeyed (w src dst len : Nat) (input : List Byte) : State :=
  { pending w 0 0 0 0 src dst len input with keyValid := false }

/-- The error code a pending command ends with. -/
def code (s : State) : Nat := (stepped s).errcode.toNat

/-! ### One step of each command -/

/-- N1: NOP with no key. -/
theorem test_nop :
    let t := stepped (unkeyed 0x0 0 0 0 [])
    statusWord t = 0x02 ∧ t.errcode = 0 ∧ t.intStatus = 0x1 ∧ t.outlen = 0 ∧ t.mem = [] := by decide +kernel

/-- N2: NOP leaves an open stream as it is. -/
theorem test_nop_keeps_stream :
    let t := stepped { k1 0x0 0 0 0 [] with ctrCount := 2, ctrOpen := true }
    statusWord t = 0x1A ∧ t.ctrCount = 2 := by decide +kernel

/-- S1: K1's twelve bytes. -/
theorem test_setKeys :
    let t := stepped (unkeyed 0x1 0 0 4 [0xFF, 0xE0, 0x00, 0xFF, 0x00, 0x00, 0x80, 0x03, 0x28, 0x38, 0xB6, 0x7B])
    t.keyN = 0xFFE000FF ∧ t.keyE = 0x8003 ∧ t.keyD = 0x2838B67B ∧ t.nb = 4 ∧ statusWord t = 0x0A := by decide +kernel

/-- S3 and S8: NB comes from LEN, and an open stream is ended. -/
theorem test_setKeys_ends_stream :
    let t := stepped
      { k1 0x1 0 0 4 [0x00, 0x00, 0x0C, 0xA1, 0x00, 0x00, 0x00, 0x11, 0x00, 0x00, 0x01, 0x9D] with
        ctrCount := 2, ctrOpen := true, nonce := 0x01020304 }
    t.keyN = 0xCA1 ∧ t.nb = 4 ∧ t.ctrCount = 0 ∧ t.ctrOpen = false ∧ t.nonce = 0x01020304 := by decide +kernel

/-- SN2: leading zeros. -/
theorem test_setNonce :
    let t := stepped (k1 0x2 0x80 0 3 [0x00, 0x00, 0x05])
    t.nonce = 5 ∧ t.ctrCount = 0 ∧ statusWord t = 0x0A := by decide +kernel

/-- SN3: a nonce longer than the block size. -/
theorem test_setNonce_long :
    (stepped (k1 0x2 0x80 0 8 [0x01, 0x02, 0x03, 0x04, 0x05, 0x06, 0x07, 0x08])).nonce = 0x0102030405060708 := by
  decide +kernel

/-- M10. -/
theorem test_modexpPub :
    let t := stepped (k1 0x3 0x100 0x200 0 [0x12, 0x34, 0x56, 0x78])
    readBytes t 0x200 4 = [0x10, 0x48, 0x16, 0x86] ∧ t.outlen = 4 ∧ t.errcode = 0 := by decide +kernel

/-- M8: an input that is not below N is reduced. -/
theorem test_modexpPub_reduces :
    readBytes (stepped (k0 0x3 0x100 0x200 0 [0xFF, 0xFF])) 0x200 2 = [0x0A, 0xD6] := by decide +kernel

/-- M10. -/
theorem test_modexpPrv :
    readBytes (stepped (k1 0x4 0x100 0x200 0 [0x12, 0x34, 0x56, 0x78])) 0x200 4 = [0xE3, 0xA9, 0x72, 0xB0] := by
  decide +kernel

/-- M14, in place. -/
theorem test_modexpPrv_in_place :
    readBytes (stepped (k2 0x4 0x100 0x100 0 [0x01, 0x02, 0x03])) 0x100 3 = [0xF5, 0x5B, 0x4C] := by decide +kernel

/-- MM10. -/
theorem test_montmul :
    readBytes (stepped (k1 0x8 0x100 0x200 0 [0x12, 0x34, 0x56, 0x78, 0x9A, 0xBC, 0xDE, 0xF0])) 0x200 4 =
      [0xEC, 0xB2, 0x51, 0xFB] := by decide +kernel

/-- MM6: both operands above N. -/
theorem test_montmul_reduces :
    readBytes (stepped (k0 0x8 0x100 0x200 0 [0xFF, 0xFF, 0xFF, 0xFF])) 0x200 2 = [0x05, 0x6B] := by decide +kernel

/-- BR12. -/
theorem test_barrett :
    readBytes (stepped (k1 0x9 0x100 0x200 0 [0x01, 0x23, 0x45, 0x67, 0x89, 0xAB, 0xCD, 0xEF])) 0x200 4 =
      [0xA1, 0xC5, 0x64, 0xC2] := by decide +kernel

/-- BR6. -/
theorem test_barrett_top :
    readBytes (stepped (k0 0x9 0x100 0x200 0 [0xFF, 0xFF, 0xFF, 0xFF])) 0x200 2 = [0x04, 0x82] := by decide +kernel

/-- EE5: two full chunks and a short one. -/
theorem test_ecbEnc :
    let t := stepped (k1 0x5 0x100 0x200 5 [0x00, 0x02, 0x01, 0x00, 0x05])
    readBytes t 0x200 12 = [0x03, 0xFF, 0xCC, 0x00, 0x35, 0x78, 0xDA, 0x95, 0x1D, 0xC2, 0xBD, 0x59] ∧ t.outlen = 12 := by
  decide +kernel

/-- EE9: the smallest chunk, K = 1. -/
theorem test_ecbEnc_smallest_chunk :
    readBytes (stepped (k2 0x5 0x100 0x200 2 [0x41, 0x42])) 0x200 6 = [0x20, 0x7E, 0x2F, 0x31, 0x2A, 0xC8] := by
  decide +kernel

/-- ED1. -/
theorem test_ecbDec :
    let t := stepped (k1 0x6 0x100 0x200 12 [0x03, 0xFF, 0xCC, 0x00, 0x35, 0x78, 0xDA, 0x95, 0x1D, 0xC2, 0xBD, 0x59])
    readBytes t 0x200 5 = [0x00, 0x02, 0x01, 0x00, 0x05] ∧ t.outlen = 5 ∧ statusWord t = 0x0A := by decide +kernel

/-- ED3: a pad count above K. -/
theorem test_ecbDec_malformed :
    let t := stepped (k1 0x6 0x100 0x200 4 [0xEE, 0x08, 0xD2, 0x89])
    t.outlen = 0 ∧ statusWord t = 0x2A ∧ t.errcode = 0 := by decide +kernel

/-- C5: three blocks, the last short. -/
theorem test_ctr :
    let t := stepped { k1 0x7 0x100 0x200 10 [0x10, 0x11, 0x12, 0x13, 0x14, 0x15, 0x16, 0x17, 0x18, 0x19] with
      nonce := 0x01020304 }
    readBytes t 0x200 10 = [0xDE, 0x3A, 0x91, 0xA6, 0x9F, 0x33, 0x84, 0x97, 0x80, 0xDC] ∧
    t.ctrCount = 3 ∧ t.ctrOpen = false := by decide +kernel

/-- C7: the counter value wraps modulo N only. -/
theorem test_ctr_wraps :
    let t := stepped { k1 0x7 0x100 0x200 8 [0xAA, 0xAA, 0xAA, 0xAA, 0xAA, 0xAA, 0xAA, 0xAA] with nonce := 0xFFE000FE }
    readBytes t 0x200 8 = [0x55, 0x4A, 0xAA, 0x54, 0xAA, 0xAA, 0xAA, 0xAA] ∧ t.ctrCount = 2 ∧ t.ctrOpen = true := by
  decide +kernel

/-- C8, its second command. -/
theorem test_ctrCont :
    let t := stepped { k1 0x17 0x100 0x208 4 [0xA0, 0xA1, 0xA2, 0xA3] with
      nonce := 0x01020304, ctrCount := 2, ctrOpen := true }
    readBytes t 0x208 4 = [0x38, 0x64, 0x97, 0xEF] ∧ t.ctrCount = 3 ∧ t.ctrOpen = true := by decide +kernel

/-- CX1 to CX4: the last counter value. -/
theorem test_ctrCont_exhaustion :
    let at_ := fun (c : Word) (len : Nat) => stepped { k1 0x17 0x100 0x200 len [] with ctrCount := c, ctrOpen := true }
    (at_ 0xFFFFFFFF 1).errcode = 7 ∧ (at_ 0xFFFFFFFF 1).ctrCount = 0xFFFFFFFF ∧ (at_ 0xFFFFFFFF 1).ctrOpen = true ∧
    (at_ 0xFFFFFFFF 0).errcode = 0 ∧ (at_ 0xFFFFFFFF 0).ctrCount = 0xFFFFFFFF ∧
    (at_ 0xFFFFFFFE 4).ctrCount = 0xFFFFFFFF ∧ (at_ 0xFFFFFFFE 5).errcode = 7 := by decide +kernel

/-! ### Error codes -/

/-- E1 to E8: illegal words, and the key-using commands with no key. -/
theorem test_codes_without_key :
    code (unkeyed 0x25 0 0x100 0 []) = 1 ∧ code (unkeyed 0xA 0 0 0 []) = 1 ∧ code (k1 0x15 0x100 0x200 4 []) = 1 ∧
    ([0x3, 0x4, 0x5, 0x6, 0x7, 0x17, 0x8, 0x9].map (fun w => code (unkeyed w 0x100 0x200 4 []))) =
      [2, 2, 2, 2, 2, 2, 2, 2] ∧
    code (unkeyed 0x0 0 0 0 []) = 0 := by decide +kernel

/-- E9 to E16: unusable moduli and small blocks. -/
theorem test_codes_of_keys :
    code (pending 0x3 0x0CA2 0x11 0x19D 2 0x100 0x200 0 []) = 3 ∧ code (pending 0x3 1 0x11 0x19D 2 0x100 0x200 0 []) = 3 ∧
    code (pending 0x9 0 0x11 0x19D 2 0x100 0x200 0 []) = 3 ∧ code (pending 0x2 0 0x11 0x19D 2 0x100 0 4 []) = 0 ∧
    code (k0 0x5 0x100 0x200 4 []) = 4 ∧ code (k0 0x6 0x100 0x200 3 []) = 4 ∧
    code (pending 0x3 11 3 7 1 0x100 0x200 0 [5]) = 0 := by decide +kernel

/-- E17 to E28: lengths, streams and ranges. -/
theorem test_codes_of_ranges :
    code (unkeyed 0x1 0x100 0 0 []) = 5 ∧ code (unkeyed 0x1 0x100 0 513 []) = 5 ∧ code (k1 0x6 0x100 0x200 6 []) = 5 ∧
    code (k1 0x17 0x100 0x200 4 []) = 6 ∧ code (k1 0x3 0xFFFC 0x200 0 []) = 0 ∧ code (k1 0x3 0xFFFD 0x200 0 []) = 8 ∧
    code (k1 0x5 0x100 0xFFF8 5 []) = 8 ∧ code (k1 0x7 0xFFFFFFFF 0x200 2 []) = 8 ∧
    code (k1 0x7 0x100 0x200 0xFFFFFFFF []) = 8 ∧ code (unkeyed 0x1 0xFA01 0 512 []) = 8 ∧
    code (unkeyed 0x1 0xFA00 0 512 []) = 0 := by decide +kernel

/-- E29 to E38: overlaps. -/
theorem test_codes_of_overlaps :
    code (k1 0x5 0x100 0x100 4 []) = 9 ∧ code (k1 0x5 0x104 0x100 4 []) = 9 ∧ code (k1 0x7 0x100 0x102 4 []) = 9 ∧
    code (k1 0x3 0x100 0x103 0 []) = 9 ∧ code (k1 0x8 0x100 0x104 0 []) = 9 ∧ code (k1 0x7 0x100 0x100 4 []) = 0 ∧
    code (k1 0x6 0x100 0x100 4 []) = 0 ∧ code (k1 0x9 0x100 0x100 0 []) = 0 ∧ code (k1 0x8 0x100 0x108 0 []) = 0 ∧
    code (k1 0x5 0x100 0x104 4 []) = 0 := by decide +kernel

/-! ### The bus -/

/-- One transfer with all strobes. -/
def wr (a : BusAddr) (w : Word) (s : State) : State := busAccess ⟨true, a, w, 0b1111⟩ s

/-- What one read answers. -/
def rd (a : BusAddr) (s : State) : Option Reply := (busAccess ⟨false, a, 0, 0⟩ s).reply

/-- B1 to B6. -/
theorem test_bus_registers :
    rd 0x000 State.reset = some (.read 0x52534145 false) ∧ rd 0x004 State.reset = some (.read 0x00010000 false) ∧
    rd 0x038 State.reset = some (.read 0x02100200 false) ∧ rd 0x008 State.reset = some (.read 0 false) ∧
    rd 0x03C State.reset = some (.read 0 false) ∧ rd 0x0FFFC State.reset = some (.read 0 false) ∧
    rd 0x002 State.reset = some (.read 0 true) ∧ (wr 0x019 5 State.reset).reply = some (.write true) ∧
    (busAccess ⟨true, 0x018, 0x1234, 0b0011⟩ State.reset).src = 0 ∧
    (busAccess ⟨true, 0x018, 0x1234, 0b0011⟩ State.reset).reply = some (.write true) := by decide +kernel

/-- B8, B9, and the lane example of R84 and R85. -/
theorem test_bus_window :
    (wr 0x034 0xFFFFFFFF State.reset).intEnable = 0xF ∧
    (busAccess ⟨true, 0x10000, 0xAABBCCDD, 0b0101⟩ State.reset).mem = [(0, 0xDD), (2, 0xBB)] ∧
    (wr 0x10004 0x04030201 State.reset).mem = [(4, 0x01), (5, 0x02), (6, 0x03), (7, 0x04)] ∧
    rd 0x10004 (wr 0x10004 0x04030201 State.reset) = some (.read 0x04030201 false) := by decide +kernel

/-- B11 to B17: accesses while a NOP is pending, its completion, and the W1C write. -/
theorem test_bus_while_busy :
    let s := wr 0x018 0x40 (wr 0x00C 0x5 (wr 0x10000 0x11111111 (wr 0x00C 0x0 State.reset)))
    rd 0x010 (wr 0x00C 0x0 State.reset) = some (.read 1 false) ∧ s.lcmd = 0 ∧ s.lsrc = 0 ∧ s.src = 0x40 ∧
    s.intStatus = 0xC ∧ s.mem = [] ∧ (stepped s).intStatus = 0xD ∧ (wr 0x030 0x5 (stepped s)).intStatus = 0x8 := by
  decide +kernel

/-- I1 to I4: irq. -/
theorem test_irq :
    irq { State.reset with intStatus := 0x1, intEnable := 0x1 } = true ∧
    irq { State.reset with intStatus := 0x3, intEnable := 0x2 } = true ∧
    irq { State.reset with intStatus := 0x3, intEnable := 0x0 } = false := by decide

/-- R5 and R6: a soft reset while a command is pending; only a passing command's output range becomes unwritten. -/
theorem test_soft_reset_aborts :
    let good := { k1 0x3 0x100 0x200 0 [1, 2, 3, 4] with mem := [(0x100, 1), (0x1FF, 6), (0x200, 7), (0x203, 8), (0x204, 9)] }
    let bad := { good with lcmd := 0x0000000A }
    (wr 0x008 1 good).mem = [(0x100, 1), (0x1FF, 6), (0x204, 9)] ∧ (wr 0x008 1 good).keyValid = false ∧
    (wr 0x008 1 good).busy = false ∧ (wr 0x008 1 good).intStatus = 0 ∧ (wr 0x008 1 bad).mem = bad.mem ∧
    (wr 0x008 0 good).busy = true := by decide +kernel

/-- R130: three bytes at an unaligned offset as a `DMEM` line. -/
theorem test_dmem_line :
    lineDmem 0x102 [0x0C, 0xA1, 0x11] =
      [.wrb 0x10100 0xA10C0000 0b1100, .wrb 0x10104 0x00000011 0b0001] := by decide +kernel

/-- R130, R322: `CMD NOP; WAIT` ends with BUSY = 0 once the engine has moved. -/
theorem test_wait_loop :
    let r := hostRun [false, false, false, false, true, false, false, false]
      ⟨lineCmd .nop :: lineWait 1 0, 0, [], State.reset⟩
    hostRunOver r = true ∧ r.hw.done = true := by decide +kernel

/-! ### The reference datapath -/

/-- R181, R183, R187 for K0: N' , the Montgomery product of 7 and R² (MM2), and 0xFFFFFFFF mod N (BR6). -/
theorem test_datapath :
    refNPrime 0x0CA1 * 0x0CA1 % 256 = 255 ∧ montmulRef 0x0CA1 2 0x0007 0x0483 = 0x0B53 ∧
    barrettRef 0x0CA1 0xFFFFFFFF = 0x0482 ∧ modExpRef 0x0CA1 2 0x41 0x11 = 0x0AE6 := by decide +kernel

/-! ### Witnesses: for each statement with hypotheses, states and operands that meet them -/

/-- IllegalWordCompletesWithIllegalCmd: one word for each of the three cases, and one for none. -/
theorem test_witness_illegal_words :
    State.reset.busy = false ∧ (0x00000017 : Word).toNat / 32 = 0 ∧ (0x00000017 : Word).toNat % 16 = 7 ∧
    (0x00000020 : Word).toNat / 32 ≠ 0 ∧
    ((0x00000010 : Word).toNat / 16 % 2 = 1 ∧ (0x00000010 : Word).toNat % 16 ≠ 7) ∧ 10 ≤ (0x0000000A : Word).toNat % 16 := by
  decide

/-- StepRunsDecodedCommand: a pending word, with no turn left and with the engine's turn listed. -/
theorem test_witness_pending_command :
    let s := k1 0x3 0x100 0x200 0 [1, 2, 3, 4]
    s.busy = true ∧ decode s.lcmd = .command .modexpPub ∧ s.turns = [] ∧
    { s with turns := [.engine] }.turns = .engine :: [] := by decide +kernel

/-- StepTakesTheNextTurn: every clause. -/
theorem test_witness_turns :
    State.reset.turns = [] ∧ State.reset.busy = false ∧
    { State.reset with turns := [.engine] }.turns = .engine :: [] ∧
    { State.reset with turns := [.hardReset] }.turns = .hardReset :: [] ∧
    { State.reset with turns := [.host ⟨false, 0, 0, 0⟩] }.turns = .host ⟨false, 0, 0, 0⟩ :: [] ∧
    { State.reset with turns := [.hostAndEngine ⟨false, 0, 0, 0⟩] }.turns = .hostAndEngine ⟨false, 0, 0, 0⟩ :: [] ∧
    { State.reset with turns := [.hostAndEngine ⟨false, 0, 0, 0⟩], busy := true }.busy = true := by decide +kernel

/-- SoftResetPreservesDmemButAbortedOutput: idle, pending illegal, pending failing, pending passing, and the first and last
byte of the passing command's output range. -/
theorem test_witness_soft_reset :
    (0x00000001 : Word).getLsbD 0 = true ∧ (0xFFFFFFFE : Word).getLsbD 0 = false ∧ State.reset.busy = false ∧
    (k1 0xA 0 0 0 []).busy = true ∧ decode (k1 0xA 0 0 0 []).lcmd = .illegal .reservedOp ∧
    check .modexpPub (k1 0x3 0x100 0x103 0 []) = some .overlap ∧ check .modexpPub (k1 0x3 0x100 0x200 0 []) = none ∧
    outMax .modexpPub (k1 0x3 0x100 0x200 0 []) = 4 := by decide +kernel

/-- SlverrExactlyForMisalignedOrPartial: a misaligned read and write, a partial write, and one that is neither. -/
theorem test_witness_slverr :
    answeredSlverr (busAccess ⟨false, 0x1FFFF, 0, 0b1111⟩ State.reset) = true ∧
    answeredSlverr (busAccess ⟨true, 0x10001, 0, 0b1111⟩ State.reset) = true ∧
    answeredSlverr (busAccess ⟨true, 0x00FFC, 0, 0b0111⟩ State.reset) = true ∧
    answeredSlverr (busAccess ⟨true, 0x01000, 0, 0b0111⟩ State.reset) = false := by decide +kernel

/-- ReservedAddressesReadZeroIgnoreWrites: the four ends of the two reserved ranges. -/
theorem test_witness_reserved :
    0x0003C % 4 = 0 ∧ 0x03C ≤ 0x0003C ∧ 0x0FFFC < 0x10000 ∧ 0x0FFFC % 4 = 0 ∧
    (wr 0x0003C 0xFFFFFFFF State.reset).reply = some (.write false) ∧
    (wr 0x00FFC 0xFFFFFFFF State.reset).reply = some (.write false) ∧
    (busAccess ⟨true, 0x01000, 0xFFFFFFFF, 0b0001⟩ State.reset).reply = some (.write false) ∧
    rd 0x01000 State.reset = some (.read 0 false) ∧ rd 0x0FFFC State.reset = some (.read 0 false) := by decide +kernel

/-- IdleWindowLanes and WindowWordReadsByteReversed: the first and the last word. -/
theorem test_witness_window_ends :
    State.reset.busy = false ∧ 0 < 16384 ∧ 16383 < 16384 ∧
    (wr 0x1FFFC 0x04030201 State.reset).mem = [(0xFFFC, 0x01), (0xFFFD, 0x02), (0xFFFE, 0x03), (0xFFFF, 0x04)] ∧
    be (readBytes (wr 0x1FFFC 0x04030201 State.reset) 0xFFFC 4) = 0x01020304 := by decide +kernel

/-- DmemLineStoresItsBytes: bytes that end exactly at the top of DMEM. -/
theorem test_witness_dmem_line :
    State.reset.busy = false ∧ 65533 + [1, 2, 3].length ≤ 65536 ∧
    (hostRun (List.replicate 1 false) ⟨lineDmem 65533 [1, 2, 3], 0, [], State.reset⟩).hw.mem =
      [(65533, 1), (65534, 2), (65535, 3)] := by decide +kernel

/-- BusyWindowAccessIsIgnored, CmdWriteWhileBusyIsOverrun, PendingCommandIsUndisturbed, ReadsHaveNoSideEffect,
WaitingHostRaisesNoEvents. -/
theorem test_witness_busy_accesses :
    let s := k1 0x3 0x100 0x200 0 [1, 2, 3, 4]
    s.busy = true ∧ (0x10000 : BusAddr).toNat % 4 = 0 ∧ 0x10000 ≤ (0x10000 : BusAddr).toNat ∧
    (0x1FFFC : BusAddr).toNat % 4 = 0 ∧ 0x10000 ≤ (0x1FFFC : BusAddr).toNat ∧
    isSoftReset ⟨true, 0x00008, 0xFFFFFFFE, 0b1111⟩ = false ∧ isSoftReset ⟨true, 0x00008, 1, 0b1111⟩ = true ∧
    Transfer.write ⟨false, 0x10000, 0, 0⟩ = false := by decide +kernel

theorem test_witness_waiting_host :
    WaitsForCompletion ⟨false, 0x00010, 0, 0⟩ (k1 0x3 0x100 0x200 0 []) :=
  fun _ => ⟨by decide, by decide⟩

/-- IrqFollowsEnabledEvents: irq falls by a W1C write, by clearing INT_ENABLE, and by a hardware reset. -/
theorem test_witness_irq_falls :
    let s := { State.reset with intStatus := 0x1, intEnable := 0x1 }
    let falls := fun (turns : List Turn) => (irq { s with turns := turns }, irq (stepped { s with turns := turns }))
    falls [.host ⟨true, 0x030, 0x1, 0b1111⟩] = (true, false) ∧ falls [.host ⟨true, 0x034, 0x0, 0b1111⟩] = (true, false) ∧
    falls [.hardReset] = (true, false) := by decide +kernel

/-- EventsStayUntilCleared: a pending event across a step with no reset and no clear, and a clear in the completion's cycle. -/
theorem test_witness_events :
    let s := { k1 0x0 0 0 0 [] with intStatus := 0x9 }
    let x : Transfer := ⟨true, 0x030, 0xF, 0b1111⟩
    s.intStatus.getLsbD 3 = true ∧ resetNext s = false ∧ clearNext 3 s = false ∧ (stepped s).intStatus = 0x9 ∧
    isSoftReset x = false ∧ (stepped { s with turns := [.hostAndEngine x] }).intStatus = 0x1 := by decide +kernel

/-- NopOnlyCompletes and the other command rules: each list of checks passes, and names each of its errors, at the values
where its ranges end. -/
theorem test_witness_load_checks :
    let s := fun (src len : Nat) => unkeyed 0x1 src 0 len []
    loadChecks 3 (s 0xFA00 512) = none ∧ loadChecks 3 (s 0xFFFD 1) = none ∧ loadChecks 3 (s 0 0) = some .lenInvalid ∧
    loadChecks 3 (s 0 513) = some .lenInvalid ∧ loadChecks 3 (s 0xFA01 512) = some .dmemRange ∧
    loadChecks 1 (s 0xFE00 512) = none ∧ loadChecks 1 (s 0xFE01 512) = some .dmemRange ∧
    loadChecks 1 (s 0xFFFFFFFF 513) = some .lenInvalid := by decide +kernel

theorem test_witness_arith_checks :
    arithChecks 1 (k1 0x3 0xFFFC 0x200 0 []) = none ∧ arithChecks 1 (k1 0x3 0x100 0xFFFC 0 []) = none ∧
    arithChecks 1 (k1 0x3 0x100 0x100 0 []) = none ∧ arithChecks 1 (k1 0x3 0x100 0x104 0 []) = none ∧
    arithChecks 1 (unkeyed 0x3 0 0 0 []) = some .keyNotConfigured ∧
    arithChecks 1 (pending 0x3 2 1 1 1 0 0 0 []) = some .modUnsupported ∧
    arithChecks 1 (pending 0x3 1 1 1 1 0 0 0 []) = some .modUnsupported ∧
    arithChecks 1 (pending 0x3 3 1 1 1 0 0 0 []) = none ∧ arithChecks 1 (k1 0x3 0xFFFD 0x200 0 []) = some .dmemRange ∧
    arithChecks 1 (k1 0x3 0x100 0x103 0 []) = some .overlap ∧ arithChecks 2 (k1 0x8 0xFFF8 0x200 0 []) = none ∧
    arithChecks 2 (k1 0x8 0xFFF9 0x200 0 []) = some .dmemRange ∧ arithChecks 2 (k1 0x8 0x100 0x107 0 []) = some .overlap ∧
    arithChecks 2 (unkeyed 0x8 0 0 0 []) = some .keyNotConfigured ∧
    arithChecks 2 (pending 0x9 2 1 1 1 0 0 0 []) = some .modUnsupported := by decide +kernel

theorem test_witness_ecb_checks :
    ecbEncChecks (k1 0x5 0x100 0xFFF4 5 []) = none ∧ ecbEncChecks (k1 0x5 0x100 0x100 0 []) = none ∧
    ecbEncChecks (unkeyed 0x5 0 0 0 []) = some .keyNotConfigured ∧
    ecbEncChecks (pending 0x5 2 1 1 4 0 0 0 []) = some .modUnsupported ∧
    ecbEncChecks (k0 0x5 0x100 0x200 4 []) = some .blockSize ∧ ecbEncChecks (k2 0x5 0x100 0x200 4 []) = none ∧
    ecbEncChecks (k1 0x5 0x100 0xFFF5 5 []) = some .dmemRange ∧ ecbEncChecks (k1 0x5 0x100 0x100 1 []) = some .overlap ∧
    ecbDecChecks (k1 0x6 0xFFFC 0x200 4 []) = none ∧ ecbDecChecks (k1 0x6 0x100 0x100 4 []) = none ∧
    ecbDecChecks (unkeyed 0x6 0 0 0 []) = some .keyNotConfigured ∧
    ecbDecChecks (pending 0x6 1 1 1 4 0 0 0 []) = some .modUnsupported ∧
    ecbDecChecks (k0 0x6 0x100 0x200 3 []) = some .blockSize ∧ ecbDecChecks (k1 0x6 0x100 0x200 5 []) = some .lenInvalid ∧
    ecbDecChecks (k1 0x6 0xFFFD 0x200 4 []) = some .dmemRange ∧ ecbDecChecks (k1 0x6 0x100 0x103 4 []) = some .overlap := by
  decide +kernel

theorem test_witness_ctr_checks :
    let open_ := fun (c : Word) (len : Nat) => { k1 0x17 0x100 0x200 len [] with ctrCount := c, ctrOpen := true }
    0 < (open_ 0 0).nb.toNat ∧ ctrChecks false (k1 0x7 0x100 0xFFFC 4 []) = none ∧
    ctrChecks false (k1 0x7 0xFFFFFFFF 0xFFFFFFFF 0 []) = none ∧
    ctrChecks false (unkeyed 0x7 0 0 0 []) = some .keyNotConfigured ∧
    ctrChecks false (pending 0x7 2 1 1 1 0 0 0 []) = some .modUnsupported ∧
    ctrChecks false (k1 0x7 0x100 0xFFFC 5 []) = some .dmemRange ∧
    ctrChecks false (k1 0x7 0x100 0x103 4 []) = some .overlap ∧ ctrChecks true (open_ 0xFFFFFFFE 4) = none ∧
    ctrChecks true (open_ 0xFFFFFFFE 5) = some .ctrExhausted ∧ ctrChecks true (open_ 0xFFFFFFFF 0) = none ∧
    ctrChecks true (k1 0x17 0x100 0x200 0 []) = some .ctrAlign := by decide +kernel

/-- ECB_DEC with a malformed block (ED3) and CTR over a whole number of blocks (C3) and not (C2). -/
theorem test_witness_result_clauses :
    (after .ecbDec (k1 0x6 0x100 0x200 4 [0xEE, 0x08, 0xD2, 0x89])).padfmt = true ∧
    (after .ctr (k1 0x7 0x100 0x200 4 [0x10, 0x11, 0x12, 0x13])).ctrOpen = true ∧
    (after .ctr (k1 0x7 0x100 0x200 1 [0x10])).ctrOpen = false := by decide +kernel

/-- FailedCommandMutatesNothing, FirstErrorInPriorityOrder: a pending illegal word. -/
theorem test_witness_pending_illegal :
    (unkeyed 0xA 0 0 0 []).busy = true ∧ decode (unkeyed 0xA 0 0 0 []).lcmd = .illegal .reservedOp ∧
    engineStep (unkeyed 0xA 0 0 0 []) = .next (stepped (unkeyed 0xA 0 0 0 [])) ∧
    (stepped (unkeyed 0xA 0 0 0 [])).errcode ≠ 0 :=
  ⟨by decide +kernel, by decide +kernel, step_stepped (unkeyed 0xA 0 0 0 []), by decide +kernel⟩

/-- SetNonceLoadsNonce: SET_KEYS on a state with a nonce. -/
theorem test_witness_setKeys_keeps_nonce :
    let s := { unkeyed 0x1 0 0 2 [0x0C, 0xA1, 0x00, 0x11, 0x01, 0x9D] with nonce := 5 }
    exec .setKeys s = .next (after .setKeys s) ∧ (after .setKeys s).errcode = 0 ∧ (after .setKeys s).nonce = 5 :=
  ⟨exec_after _ _, by decide +kernel, by decide +kernel⟩

/-- FailedCommandMutatesNothing and CommandFrame: a command that fails and one that does not. -/
theorem test_witness_failed :
    exec .modexpPub (k1 0x3 0x100 0x103 0 []) = .next (after .modexpPub (k1 0x3 0x100 0x103 0 [])) ∧
    (after .modexpPub (k1 0x3 0x100 0x103 0 [])).errcode ≠ 0 ∧
    exec .modexpPub (k1 0x3 0x100 0x200 0 []) = .next (after .modexpPub (k1 0x3 0x100 0x200 0 [])) ∧
    (after .modexpPub (k1 0x3 0x100 0x200 0 [])).errcode = 0 :=
  ⟨exec_after _ _, by decide +kernel, exec_after _ _, by decide +kernel⟩

/-- KeysChangeOnlyBySetKeysOrReset: SET_KEYS changes the keys. -/
theorem test_witness_keys_change :
    let s := unkeyed 0x1 0 0 2 [0x0C, 0xA1, 0x00, 0x11, 0x01, 0x9D]
    step s = .next (stepped s) ∧ ¬SameKeys s (stepped s) :=
  ⟨step_stepped _, fun h => absurd h.1 (by decide +kernel)⟩

/-- StreamChangesOnlyByItsCommandsOrReset: SET_NONCE changes the nonce and with it the stream. -/
theorem test_witness_stream_changes :
    let s := k1 0x2 0x80 0 1 [5]
    step s = .next (stepped s) ∧ resetNext s = false ∧ (stepped s).nonce ≠ s.nonce ∧ ¬SameStream s (stepped s) :=
  ⟨step_stepped _, by decide +kernel, by decide +kernel, fun h => absurd h.1 (by decide +kernel)⟩

/-- StepKeepsInvariant: a state with a key, an open stream, written memory and a pending command. -/
theorem test_witness_invariant :
    let s := { k1 0x7 0x100 0x200 4 [0x10, 0x11, 0x12, 0x13] with nonce := 0x01020304, ctrCount := 2, ctrOpen := true }
    MachineInv s ∧ step s = .next (stepped s) ∧ (stepped s).errcode = 0 := by
  refine ⟨⟨⟨?_, ?_⟩, ⟨?_, ?_, ?_, ?_⟩, ?_, ?_, ?_⟩, step_stepped _, ?_⟩
  · decide +kernel
  · decide +kernel
  · decide +kernel
  · decide +kernel
  · decide +kernel
  · decide +kernel
  · unfold PendingCoherent; decide +kernel
  · unfold StreamCoherent; decide +kernel
  · decide +kernel
  · decide +kernel

/-- InvariantInEveryReachableState: a run of three steps that installs nothing but completes a NOP. -/
theorem test_witness_run :
    let turns : List Turn := [.host ⟨true, 0x0000C, 0, 0b1111⟩, .engine, .host ⟨false, 0x00010, 0, 0⟩]
    ∃ t : State, Host.Core.run core 3 { State.reset with turns := turns } = .next t ∧ t.reply = some (.read 0x02 false) :=
  ⟨_, rfl, by decide +kernel⟩

/-- BigEndianConversions, UnframeUndoesFrame, FrameValueAndBound: a value at the end of its range, the smallest block size,
an empty and a full chunk, a pad field of K and one above it, and a key that takes every frame. -/
theorem test_witness_strings :
    255 < 256 ^ 1 ∧ i2be 255 1 = [0xFF] ∧ frame 3 [] = [0, 1, 0] ∧ frame 3 [0x41] = [0, 0, 0x41] ∧
    be ([0, 1, 7].take 2) ≤ 3 - 2 ∧ unframe 3 [0, 1, 7] = ([], false) ∧ 3 - 2 < be ([0, 2, 7].take 2) ∧
    unframe 3 [0, 2, 7] = ([], true) ∧ (frame 512 []).length = 512 := by decide +kernel

theorem test_witness_frames_fit :
    (k2 0x5 0x100 0x200 1 [0x41]).nb.toNat = 3 ∧ FramesFit (k2 0x5 0x100 0x200 1 [0x41]) :=
  ⟨by decide +kernel, by unfold FramesFit; decide +kernel⟩

/-- ReferenceBarrettIsExact, ReferenceMontgomeryIsExact, ReferenceExponentiationIsExact: the smallest modulus, in one byte. -/
theorem test_witness_datapath :
    3 % 2 = 1 ∧ 3 ≤ 3 ∧ 3 < 256 ^ 1 ∧ 2 < 3 ∧ barrettRef 3 200 = 2 ∧ monProRef 3 1 2 2 = 1 ∧ modExpRef 3 1 2 0 = 1 := by
  decide +kernel

/-- KeystreamDependsOnCounterModN, with K0: NONCE + i is N and is N + 1. -/
theorem test_witness_keystream :
    let s := k0 0x7 0x100 0x200 0 []
    3 ≤ s.keyN.toNat ∧ s.keyN.toNat < 256 ^ s.nb.toNat ∧ (s.nonce.toNat + 3233) % s.keyN.toNat = 0 ∧
    0 < s.keyE.toNat ∧ (s.nonce.toNat + 3234) % s.keyN.toNat = 1 := by decide +kernel

/-- ClearNonceAvoidsUnmaskedBlocks, with K0: the longest stream its clear nonces allow, its first and last block, and values
of NONCE + i at 2 and N - 1. -/
theorem test_witness_clear_nonce :
    let s := { k0 0x7 0x100 0x200 0 [] with nonce := 2 }
    RsaKey 53 61 s ∧ s.keyN.toNat < 256 ^ s.nb.toNat ∧ NonceClear 3231 s ∧ 0 < 3231 ∧ 3230 < 3231 ∧
    keystream s 0 = [0x06, 0xD8] ∧ keystream s 3230 = [0x0C, 0xA0] :=
  ⟨⟨by norm_num, by norm_num, by norm_num, by norm_num, by norm_num, by decide +kernel, by decide +kernel⟩,
    by decide +kernel, ⟨by decide +kernel, by decide +kernel⟩, by decide, by decide, by decide +kernel, by decide +kernel⟩

/-- RsaRoundTripThroughCommands: K0 and the block 00 41 (M4). -/
theorem test_witness_rsa :
    let s := k0 0x3 0x100 0x200 0 [0x00, 0x41]
    let t := after .modexpPub s
    let v := { t with lsrc := s.ldst, ldst := 0x300 }
    RsaKey 53 61 s ∧ s.keyN.toNat < 256 ^ s.nb.toNat ∧ be (readBytes s s.lsrc.toNat s.nb.toNat) < s.keyN.toNat ∧
    exec .modexpPub s = .next t ∧ t.errcode = 0 ∧ exec .modexpPrv v = .next (after .modexpPrv v) ∧
    (after .modexpPrv v).errcode = 0 := by
  refine ⟨⟨by norm_num, by norm_num, by norm_num, by norm_num, by norm_num, by decide +kernel, by decide +kernel⟩, ?_, ?_,
    exec_after _ _, ?_, exec_after _ _, ?_⟩ <;> decide +kernel

/-- EcbRoundTripThroughCommands: K2, whose frames are all below N, and the plaintext 41 42 (EE9). -/
theorem test_witness_ecb_round_trip :
    let s := k2 0x5 0x100 0x200 2 [0x41, 0x42]
    let t := after .ecbEnc s
    let v := { t with lsrc := s.ldst, ldst := 0x300, llen := t.outlen }
    RsaKey 4091 4093 s ∧ s.keyN.toNat < 256 ^ s.nb.toNat ∧ s.nb.toNat ≤ 512 ∧
    (∀ j < ceilDiv s.llen.toNat (s.nb.toNat - 2), be (frame s.nb.toNat (ecbChunk s j)) < s.keyN.toNat) ∧
    exec .ecbEnc s = .next t ∧ t.errcode = 0 ∧ exec .ecbDec v = .next (after .ecbDec v) ∧ (after .ecbDec v).errcode = 0 := by
  refine ⟨⟨by norm_num, by norm_num, by norm_num, by norm_num, by norm_num, by decide +kernel, by decide +kernel⟩, ?_, ?_,
    ?_, exec_after _ _, ?_, exec_after _ _, ?_⟩ <;> decide +kernel

/-- CtrTwiceRestoresInput: CTR over five bytes and CTR.CONT over three, each twice. -/
theorem test_witness_ctr_twice :
    let s := k0 0x7 0x100 0x200 5 [1, 2, 3, 4, 5]
    let t := after .ctr s
    let v := { t with lsrc := s.ldst, ldst := 0x300, ctrCount := s.ctrCount, ctrOpen := s.ctrOpen }
    let s2 := { k0 0x17 0x100 0x200 3 [1, 2, 3] with ctrCount := 2, ctrOpen := true }
    let t2 := after .ctrCont s2
    let v2 := { t2 with lsrc := s2.ldst, ldst := 0x300, ctrCount := s2.ctrCount, ctrOpen := s2.ctrOpen }
    0 < s.nb.toNat ∧ exec .ctr s = .next t ∧ t.errcode = 0 ∧ exec .ctr v = .next (after .ctr v) ∧
    (after .ctr v).errcode = 0 ∧
    0 < s2.nb.toNat ∧ exec .ctrCont s2 = .next t2 ∧ t2.errcode = 0 ∧ exec .ctrCont v2 = .next (after .ctrCont v2) ∧
    (after .ctrCont v2).errcode = 0 := by
  refine ⟨?_, exec_after _ _, ?_, exec_after _ _, ?_, ?_, exec_after _ _, ?_, exec_after _ _, ?_⟩ <;> decide +kernel

/-- CtrSplitEqualsOneCommand: four bytes, then one. -/
theorem test_witness_ctr_split :
    let s := k0 0x7 0x100 0x200 0 [1, 2, 3, 4, 5]
    let t := after .ctr { s with llen := 4 }
    let u := { t with lsrc := s.lsrc + 4, ldst := s.ldst + 4, llen := 1 }
    let v := { s with llen := 4 + 1 }
    0 < s.nb.toNat ∧ (4 : Word).toNat % s.nb.toNat = 0 ∧
    exec .ctr { s with llen := 4 } = .next t ∧ t.errcode = 0 ∧ exec .ctrCont u = .next (after .ctrCont u) ∧
    (after .ctrCont u).errcode = 0 ∧ exec .ctr v = .next (after .ctr v) ∧ (after .ctr v).errcode = 0 := by
  refine ⟨?_, ?_, exec_after _ _, ?_, exec_after _ _, ?_, exec_after _ _, ?_⟩ <;> decide +kernel

/-- EcbEncSplitEqualsOneCommand: two bytes, then one, under K1. -/
theorem test_witness_ecbEnc_split :
    let s := k1 0x5 0x100 0x200 0 [0x41, 0x42, 0x43]
    let t := after .ecbEnc { s with llen := 2 }
    let u := { t with lsrc := s.lsrc + 2, ldst := s.ldst + t.outlen, llen := 1 }
    let v := { s with llen := 2 + 1 }
    (2 : Word).toNat % (s.nb.toNat - 2) = 0 ∧ exec .ecbEnc { s with llen := 2 } = .next t ∧ t.errcode = 0 ∧
    exec .ecbEnc u = .next (after .ecbEnc u) ∧ (after .ecbEnc u).errcode = 0 ∧ exec .ecbEnc v = .next (after .ecbEnc v) ∧
    (after .ecbEnc v).errcode = 0 := by
  refine ⟨?_, exec_after _ _, ?_, exec_after _ _, ?_, exec_after _ _, ?_⟩ <;> decide +kernel

/-- EcbDecSplitEqualsOneCommand: a malformed block (ED3), then a good one (ED5). -/
theorem test_witness_ecbDec_split :
    let s := k1 0x6 0x100 0x200 0 [0xEE, 0x08, 0xD2, 0x89, 0x12, 0x4B, 0xF1, 0x59]
    let t := after .ecbDec { s with llen := 4 }
    let u := { t with lsrc := s.lsrc + 4, ldst := s.ldst + t.outlen, llen := 4 }
    let v := { s with llen := 4 + 4 }
    exec .ecbDec { s with llen := 4 } = .next t ∧ t.errcode = 0 ∧ exec .ecbDec u = .next (after .ecbDec u) ∧
    (after .ecbDec u).errcode = 0 ∧ exec .ecbDec v = .next (after .ecbDec v) ∧ (after .ecbDec v).errcode = 0 ∧
    (after .ecbDec v).padfmt = true := by
  refine ⟨exec_after _ _, ?_, exec_after _ _, ?_, exec_after _ _, ?_, ?_⟩ <;> decide +kernel

end Sys2Proof.Tests
end

section
/-! Proofs of the family 00_scope.md: BE as a positional sum and I2BE as its inverse (R19). -/

namespace Sys2Proof.Machine

/-- The head of the string is the summand at 0; the others are the summands of the tail, moved up by one. -/
theorem be_eq_sum (s : List Byte) :
    be s = ∑ i ∈ Finset.range s.length, (s.getD i 0).toNat * 256 ^ (s.length - 1 - i) := by
  induction s with
  | nil => rfl
  | cons b s ih =>
    rw [be_cons, ih, List.length_cons, Finset.sum_range_succ', add_comm]
    simp [Nat.sub_sub, Nat.add_comm 1]

/-- A k-byte string of value v is I2BE(v, k): BE determines a string of given length. -/
theorem eq_i2be_of_be_eq (s : List Byte) (v k : Nat) (hl : s.length = k) (hv : be s = v) : s = i2be v k := by
  subst hl hv
  exact (i2be_be s).symm

/-- Settles O44: the positional sum, by induction on the string; length and value of I2BE and its uniqueness are the
laws of byte strings. -/
theorem bigEndianConversions : Obligations.BigEndianConversions :=
  ⟨be_eq_sum, fun v k hv => ⟨i2be_length v k, be_i2be v k hv, fun s => eq_i2be_of_be_eq s v k⟩⟩

end Sys2Proof.Machine
end

section
/-! Facts the proofs of the family 10_state.md share: what a step's host part and engine part each leave unchanged. -/

namespace Sys2Proof.Machine

/-! ### The host's transfers -/

/-- What a transfer can change of a pending command's machine unless it is a soft reset: the operand registers, the event
and enable registers and the port's answer (R62, R86, R102, R269). -/
theorem busAccess_frame_while_busy {x : Transfer} {s : State} (hb : s.busy = true) (hx : isSoftReset x = false) :
    ∃ src dst len ev en r,
      busAccess x s = { s with src := src, dst := dst, len := len, intStatus := ev, intEnable := en, reply := r } := by
  obtain ⟨r, u, hu, he⟩ := busAccess_cases x s
  rw [hu]
  cases he
  case start hidle _ _ => simp [hb] at hidle
  case store hidle _ _ _ => simp [hb] at hidle
  case reset hr => simp [hx] at hr
  all_goals exact ⟨_, _, _, _, _, _, rfl⟩

/-- No transfer but a soft reset writes the stream: its registers are read-only to the host. -/
theorem busAccess_stream {x : Transfer} {s : State} (hx : isSoftReset x = false) : SameStream s (busAccess x s) := by
  obtain ⟨r, u, hu, he⟩ := busAccess_cases x s
  rw [hu]
  cases he
  case reset hr => simp [hx] at hr
  all_goals exact ⟨rfl, rfl, rfl⟩

theorem getLsbD_or_left {a : BitVec 4} {i : Nat} (b : BitVec 4) (h : a.getLsbD i = true) :
    (a ||| b).getLsbD i = true := by
  rw [BitVec.getLsbD_or, h, Bool.true_or]

/-- A W1C write clears exactly the bits written as 1 (R33, R54). -/
theorem clearEvents_getLsbD (w : Word) (s : State) {i : Nat} (hi : i < 4) :
    (clearEvents (w.setWidth 4) s).intStatus.getLsbD i = (s.intStatus.getLsbD i && !w.getLsbD i) := by
  simp [hi]

/-- A transfer that neither resets nor writes 1 to an event bit leaves it set (R54). -/
theorem busAccess_keeps_event {x : Transfer} {s : State} {i : Nat} (hx : isSoftReset x = false)
    (hc : clearsEvent i x = false) (hi : s.intStatus.getLsbD i = true) :
    (busAccess x s).intStatus.getLsbD i = true := by
  obtain ⟨r, u, hu, he⟩ := busAccess_cases x s
  rw [hu, answer_intStatus]
  cases he
  case accessEvent => exact getLsbD_or_left _ hi
  case overrun => exact getLsbD_or_left _ hi
  case reset hr => simp [hx] at hr
  case clear hw ha hs =>
    have ha' : x.addr = 0x030 := BitVec.eq_of_toNat_eq ha
    have hd : x.data.getLsbD i = false := by simpa [clearsEvent, hw, ha', hs] using hc
    rw [clearEvents_getLsbD _ _ (BitVec.lt_of_getLsbD hi), hi, hd]
    rfl
  all_goals exact hi

/-! ### The effects of the commands -/

/-- Only SET_KEYS writes the keypair (R158). -/
theorem effectOf_keys {i : Instr} (h : i ≠ .setKeys) (s : State) : SameKeys s (effectOf i s) := by
  cases i
  case setKeys => exact absurd rfl h
  all_goals exact ⟨rfl, rfl, rfl, rfl, rfl⟩

/-- Only SET_NONCE writes the nonce (R61). -/
theorem effectOf_nonce {i : Instr} (h : i ≠ .setNonce) (s : State) : (effectOf i s).nonce = s.nonce := by
  cases i
  case setNonce => exact absurd rfl h
  all_goals rfl

/-- The commands that write the counter and CTR_OPEN (R52, R235). -/
def streamWriters : List Instr := [.ctr, .ctrCont, .setKeys, .setNonce]

theorem effectOf_stream {i : Instr} (h : i ∉ streamWriters) (s : State) : SameStream s (effectOf i s) := by
  cases i
  case setKeys => exact absurd (by decide) h
  case setNonce => exact absurd (by decide) h
  case ctr => exact absurd (by decide) h
  case ctrCont => exact absurd (by decide) h
  all_goals exact ⟨rfl, rfl, rfl⟩

/-- Only ECB_DEC writes PADFMT (R46). -/
theorem effectOf_padfmt {i : Instr} (h : i ≠ .ecbDec) (s : State) : (effectOf i s).padfmt = s.padfmt := by
  cases i
  case ecbDec => exact absurd rfl h
  all_goals rfl

theorem sameDmem_of_mem_eq {s t : State} (hm : t.mem = s.mem) (hh : t.hwResets = s.hwResets)
    (ha : t.aborted = s.aborted) : SameDmem s t :=
  fun a => ⟨by rw [hm], dmemByte_congr hm hh ha a⟩

/-! ### The engine -/

/-- The engine's completion sets DONE_EV, raises events only, and keeps the latch (R54, R62, R265, R266). -/
theorem EngineEffect.completion {s t : State} (h : EngineEffect s t) :
    t.done = true ∧ t.busy = false ∧ ∃ ev : BitVec 4, ev.getLsbD 0 = true ∧ t.intStatus = s.intStatus ||| ev := by
  cases h with
  | illegal => exact ⟨rfl, rfl, _, by decide, rfl⟩
  | error => exact ⟨rfl, rfl, _, by decide, rfl⟩
  | done i =>
    obtain ⟨-, -, -, -, -, hev⟩ := effectOf_frame i s
    exact ⟨rfl, rfl, doneEv, by decide, by rw [completeOk_intStatus, hev]⟩

theorem EngineEffect.doneEv_set {s t : State} (h : EngineEffect s t) : t.intStatus.getLsbD 0 = true := by
  obtain ⟨-, -, ev, hev, ht⟩ := h.completion
  rw [ht, BitVec.getLsbD_or, hev, Bool.or_true]

theorem EngineEffect.keeps_event {s t : State} (h : EngineEffect s t) {i : Nat} (hi : s.intStatus.getLsbD i = true) :
    t.intStatus.getLsbD i = true := by
  obtain ⟨-, -, ev, -, ht⟩ := h.completion
  rw [ht]
  exact getLsbD_or_left ev hi

/-! ### The two parts of a step -/

/-- What the host's part of a step does: nothing, or one transfer; the turn is taken off the input. -/
inductive HostPart (s : State) : State → Prop where
  | idle : HostPart s (popTurn s)
  | access (x : Transfer) : nextTransfer s = some x → HostPart s (busAccess x (popTurn s))

theorem popTurn_of_no_turns {s : State} (h : s.turns = []) : popTurn s = s := by
  cases s
  cases h
  rfl

theorem nextTransfer_of_host {s : State} {x : Transfer} (h : s.turns.head? = some (.host x)) :
    nextTransfer s = some x := by
  obtain ⟨rest, ht⟩ := List.head?_eq_some_iff.mp h
  rw [nextTransfer, ht]

theorem nextTransfer_of_hostAndEngine {s : State} {x : Transfer} (h : s.turns.head? = some (.hostAndEngine x)) :
    nextTransfer s = some x := by
  obtain ⟨rest, ht⟩ := List.head?_eq_some_iff.mp h
  rw [nextTransfer, ht]

/-- A step is a hardware reset, or the host's part and then, if a command was pending before it and still is, possibly the
engine's completion. -/
theorem step_parts {s t : State} (h : step s = .next t) :
    (s.turns.head? = some .hardReset ∧ t = hardReset (popTurn s)) ∨
    ∃ u, HostPart s u ∧ (t = u ∨ s.busy = true ∧ u.busy = true ∧ EngineEffect u t) := by
  have engine {u : State} (hu : HostPart s u) (hb : u.busy = true → s.busy = true) (he : engineStep u = .next t) :
      ∃ u, HostPart s u ∧ (t = u ∨ s.busy = true ∧ u.busy = true ∧ EngineEffect u t) := by
    rcases engineStep_cases he with ⟨-, ht⟩ | ⟨hub, he⟩
    · exact ⟨u, hu, .inl ht⟩
    · exact ⟨u, hu, .inr ⟨hb hub, hub, he⟩⟩
  rcases step_cases h with ⟨ht, he⟩ | ⟨-, he⟩ | ⟨x, hx, rfl⟩ | ⟨x, hx, -, rfl⟩ | ⟨x, hx, hb, he⟩ | hr
  · rw [← popTurn_of_no_turns ht] at he
    exact .inr (engine .idle id he)
  · exact .inr (engine .idle id he)
  · exact .inr ⟨_, .access x (nextTransfer_of_host hx), .inl rfl⟩
  · exact .inr ⟨_, .access x (nextTransfer_of_hostAndEngine hx), .inl rfl⟩
  · exact .inr (engine (.access x (nextTransfer_of_hostAndEngine hx)) (fun _ => hb) he)
  · exact .inl hr

/-- No reset comes next: neither rst_n nor a soft reset by the coming transfer. -/
theorem resetNext_eq_false {s : State} (h : resetNext s = false) :
    s.turns.head? ≠ some .hardReset ∧ ∀ x, nextTransfer s = some x → isSoftReset x = false := by
  rw [resetNext, Bool.or_eq_false_iff, beq_eq_false_iff_ne] at h
  obtain ⟨hh, hs⟩ := h
  exact ⟨hh, fun x hx => by rwa [hx, Option.any_some] at hs⟩

/-- A step without a reset is the host's part and then perhaps the engine's. -/
theorem step_parts_of_no_reset {s t : State} (h : step s = .next t) (hr : resetNext s = false) :
    ∃ u, HostPart s u ∧ (t = u ∨ s.busy = true ∧ u.busy = true ∧ EngineEffect u t) := by
  rcases step_parts h with ⟨hh, -⟩ | hu
  · exact absurd hh (resetNext_eq_false hr).1
  · exact hu

theorem HostPart.stream {s u : State} (h : HostPart s u) (hr : resetNext s = false) : SameStream s u := by
  cases h with
  | idle => exact ⟨rfl, rfl, rfl⟩
  | access x hx => exact busAccess_stream (s := popTurn s) ((resetNext_eq_false hr).2 x hx)

theorem HostPart.lcmd {s u : State} (h : HostPart s u) (hr : resetNext s = false) (hb : s.busy = true) :
    u.lcmd = s.lcmd := by
  cases h with
  | idle => rfl
  | access x hx =>
    obtain ⟨_, _, _, _, _, _, hu⟩ := busAccess_frame_while_busy (s := popTurn s) hb ((resetNext_eq_false hr).2 x hx)
    rw [hu]
    rfl

theorem HostPart.keeps_event {s u : State} {i : Nat} (h : HostPart s u) (hr : resetNext s = false)
    (hc : clearNext i s = false) (hi : s.intStatus.getLsbD i = true) : u.intStatus.getLsbD i = true := by
  cases h with
  | idle => exact hi
  | access x hx =>
    have hcx : clearsEvent i x = false := by rwa [clearNext, hx, Option.any_some] at hc
    exact busAccess_keeps_event (s := popTurn s) ((resetNext_eq_false hr).2 x hx) hcx hi

/-- With a command pending, a shared cycle is the transfer and then the engine's step (log entry 5). -/
theorem step_hostAndEngine_busy {s : State} {x : Transfer} {rest : List Turn} (hb : s.busy = true)
    (ht : s.turns = .hostAndEngine x :: rest) : step s = engineStep (busAccess x { s with turns := rest }) := by
  simp only [step, nextTurn, ht, takeTurn, sameCycle, hb, if_true]

end Sys2Proof.Machine
end

section
/-! The invariant of the machine (10_state.md R64): it holds at reset, every part of a step keeps it, and so it holds in
every reachable state. -/

namespace Sys2Proof.Machine

/-! ### The invariant through the host's part -/

theorem machineInv_reset : MachineInv State.reset :=
  ⟨⟨fun _ => ⟨rfl, rfl, rfl, rfl⟩, fun hv => absurd hv Bool.false_ne_true⟩, by simp [FlagCoherent, State.reset],
    fun hb => absurd hb Bool.false_ne_true, fun ho => absurd ho Bool.false_ne_true, reset_mem_wf⟩

theorem machineInv_hardReset (s : State) : MachineInv (hardReset s) := machineInv_reset

theorem abandonPending_mem_wf {s : State} (h : s.mem.wf) : (abandonPending s).mem.wf := by
  unfold abandonPending
  split
  · exact h
  · exact memErase_wf _ _ _ h

theorem machineInv_softReset {s : State} (h : s.mem.wf) : MachineInv (softReset s) := by
  obtain ⟨hk, hf, hp, hs, -⟩ := machineInv_reset
  exact ⟨hk, hf, hp, hs, abandonPending_mem_wf h⟩

/-- A command start clears the result registers (R267). -/
theorem machineInv_startCommand (w : Word) {s : State} (h : MachineInv s) : MachineInv (startCommand w s) := by
  obtain ⟨hk, -, -, hs, hm⟩ := h
  exact ⟨hk, by simp [FlagCoherent], fun _ => ⟨rfl, rfl, rfl, rfl, rfl⟩, hs, hm⟩

/-- An aligned window word lies inside DMEM. -/
theorem window_base_in_dmem (a : BusAddr) (h : 0x10000 ≤ a.toNat) (hal : a.toNat % 4 = 0) :
    a.toNat - 0x10000 + 4 ≤ Config.dmemSize := by
  have := a.isLt
  rw [show Config.dmemSize = 65536 from rfl]
  omega

theorem machineInv_hostEffect {x : Transfer} {s u : State} (he : HostEffect x s u) (h : MachineInv s) :
    MachineInv u := by
  obtain ⟨hk, hf, hp, hs, hm⟩ := h
  cases he
  case start => exact machineInv_startCommand _ ⟨hk, hf, hp, hs, hm⟩
  case reset => exact machineInv_softReset hm
  case store _ _ hwin hal => exact ⟨hk, hf, hp, hs, windowLanes_wf _ _ _ _ hm (window_base_in_dmem _ hwin hal)⟩
  all_goals exact ⟨hk, hf, hp, hs, hm⟩

theorem machineInv_busAccess (x : Transfer) {s : State} (h : MachineInv s) : MachineInv (busAccess x s) := by
  obtain ⟨r, u, hu, he⟩ := busAccess_cases x s
  rw [hu]
  have hinv : MachineInv u := machineInv_hostEffect he h
  exact hinv

theorem machineInv_hostPart {s u : State} (hu : HostPart s u) (h : MachineInv s) : MachineInv u := by
  cases hu with
  | idle => exact h
  | access x => exact machineInv_busAccess x (s := popTurn s) h

/-! ### The invariant through the engine's part -/

theorem errorValue_le (c : ErrorCode) : (errorValue c).toNat ≤ 9 := by cases c <;> decide

theorem be_slice_lt (s : List Byte) (i j : Nat) : be (slice s i j) < 256 ^ (j - i) :=
  calc be (slice s i j) < 256 ^ (slice s i j).length := be_lt _
    _ ≤ 256 ^ (j - i) := Nat.pow_le_pow_right (by omega) (by rw [slice_length]; exact Nat.min_le_left _ _)

theorem ofNat_be_slice_lt (s : List Byte) {i j l : Nat} (h : j - i = l) :
    (BitVec.ofNat 4096 (be (slice s i j))).toNat < 256 ^ l := by
  rw [BitVec.toNat_ofNat, ← h]
  exact (Nat.mod_le _ _).trans_lt (be_slice_lt s i j)

/-- The only check on the length of SET_KEYS (R153). -/
theorem setKeys_len_of_pass {s : State} (h : check .setKeys s = none) : 1 ≤ s.llen.toNat ∧ s.llen.toNat ≤ 512 := by
  rw [check_setKeys, loadChecks, check_step] at h
  omega

/-- SET_KEYS installs a coherent key state: each field has LLEN bytes, and NB is LLEN (R153). -/
theorem keyCoherent_installKeys {s : State} (h : check .setKeys s = none) : KeyCoherent (installKeys s) := by
  obtain ⟨h1, h2⟩ := setKeys_len_of_pass h
  have hnb : (installKeys s).nb.toNat = s.llen.toNat := by
    simp only [installKeys, BitVec.toNat_ofNat]
    omega
  refine ⟨fun hv => absurd hv.symm Bool.false_ne_true, fun _ => ?_⟩
  rw [hnb]
  exact ⟨h1, h2, ofNat_be_slice_lt _ (by omega), ofNat_be_slice_lt _ (by omega), ofNat_be_slice_lt _ (by omega)⟩

theorem keyCoherent_congr {s t : State} (hs : SameKeys s t) (h : KeyCoherent s) : KeyCoherent t := by
  obtain ⟨hn, he, hd, hnb, hv⟩ := hs
  simpa only [KeyCoherent, hn, he, hd, hnb, hv] using h

theorem keyCoherent_effectOf {i : Instr} {s : State} (hc : check i s = none) (h : KeyCoherent s) :
    KeyCoherent (effectOf i s) := by
  by_cases hi : i = .setKeys
  · subst hi
    exact keyCoherent_installKeys hc
  · exact keyCoherent_congr (effectOf_keys hi s) h

/-- A command opens the stream only with a key: CTR is key-using, SET_KEYS and SET_NONCE close it (R151, R235). -/
theorem streamCoherent_effectOf {i : Instr} {s : State} (hc : check i s = none) (h : StreamCoherent s) :
    StreamCoherent (effectOf i s) := by
  obtain ⟨-, -, -, hkey⟩ := check_none hc
  cases i
  case setKeys => exact fun _ => rfl
  case setNonce => exact fun ho => by cases ho
  case ctr => exact fun _ => (hkey rfl).1
  case ctrCont => exact fun _ => (hkey rfl).1
  all_goals exact h

/-- An OP value names only the command whose word has that OP field; CONT chooses between the two words of OP 0x7. -/
theorem opField_of_commandOf {op : BitVec 4} {cont : Bool} {i : Instr} (h : commandOf op cont = .command i) :
    op = opField (encode i) := by
  unfold commandOf at h
  split at h
  case h_8 hop => split at h <;> cases h <;> exact BitVec.eq_of_toNat_eq hop
  case h_11 => cases h
  all_goals
    rename_i hop
    cases h
    exact BitVec.eq_of_toNat_eq hop

/-- The OP field of a word that decodes to a command is the command's (R122). -/
theorem opField_of_decode {w : Word} {i : Instr} (h : decode w = .command i) : opField w = opField (encode i) := by
  unfold decode at h
  split at h
  · cases h
  · split at h
    · cases h
    · exact opField_of_commandOf h

/-- PADFMT is set by no command but ECB_DEC (R46, R64). -/
theorem opField_of_padfmt_set {i : Instr} {s : State} (hd : decode s.lcmd = .command i) (hp : s.padfmt = false)
    (h : (effectOf i s).padfmt = true) : opField s.lcmd = 0x6 := by
  by_cases hi : i = .ecbDec
  · subst hi
    exact opField_of_decode hd
  · rw [effectOf_padfmt hi, hp] at h
    cases h

/-- An error completion keeps the invariant: PADFMT was cleared at the command's start (R265, R267). -/
theorem machineInv_completeError (c : ErrorCode) {s : State} (hb : s.busy = true) (h : MachineInv s) :
    MachineInv (completeError c s) := by
  obtain ⟨hk, -, hp, hs, hm⟩ := h
  obtain ⟨-, -, hpad, -, -⟩ := hp hb
  exact ⟨hk, ⟨fun _ => rfl, by simp [hpad], iff_of_true rfl (errorValue_ne_zero c), errorValue_le c⟩,
    fun hb' => absurd hb' Bool.false_ne_true, hs, hm⟩

theorem machineInv_completeOk {i : Instr} {s : State} (hb : s.busy = true) (hd : decode s.lcmd = .command i)
    (hc : check i s = none) (h : MachineInv s) : MachineInv (completeOk (effectOf i s)) := by
  obtain ⟨hk, -, hp, hs, hm⟩ := h
  obtain ⟨-, -, hpad, -, -⟩ := hp hb
  obtain ⟨⟨-, -, -, hlcmd, -⟩, -⟩ := effectOf_frame i s
  have hop (hpf : (effectOf i s).padfmt = true) : opField (completeOk (effectOf i s)).lcmd = 0x6 := by
    rw [completeOk_lcmd, hlcmd]
    exact opField_of_padfmt_set hd hpad hpf
  exact ⟨keyCoherent_effectOf hc hk, ⟨fun _ => rfl, fun hpf => ⟨rfl, rfl, hop hpf⟩, by simp, by simp⟩,
    fun hb' => absurd hb' Bool.false_ne_true, streamCoherent_effectOf hc hs, effectOf_mem_wf hc hm⟩

theorem machineInv_engineEffect {s t : State} (he : EngineEffect s t) (hb : s.busy = true) (h : MachineInv s) :
    MachineInv t := by
  cases he with
  | illegal => exact machineInv_completeError _ hb h
  | error i c => exact machineInv_completeError c hb h
  | done i hd hc => exact machineInv_completeOk hb hd hc h

/-! ### The obligations on the invariant -/

/-- Settles O42: the base case of O43. -/
theorem resetMeetsInvariant : Obligations.ResetMeetsInvariant := machineInv_reset

/-- Settles O41: a hardware reset makes the invariant true, and the two parts of any other step keep it. -/
theorem stepKeepsInvariant : Obligations.StepKeepsInvariant := by
  intro s t h hst
  rcases step_parts hst with ⟨-, rfl⟩ | ⟨u, hu, rfl | ⟨-, hb, he⟩⟩
  · exact machineInv_hardReset _
  · exact machineInv_hostPart hu h
  · exact machineInv_engineEffect he hb (machineInv_hostPart hu h)

theorem run_succ_of_next (M : Host.Core) {s u : M.State} (h : M.step s = .next u) (k : Nat) :
    M.run (k + 1) s = M.run k u := by
  simp only [Host.Core.run, h]

/-- A property that every step keeps holds after any number of steps. -/
theorem run_keeps {P : State → Prop} (hP : ∀ s t, P s → step s = .next t → P t) (k : Nat) :
    ∀ {s t : State}, P s → Host.Core.run core k s = .next t → P t := by
  induction k with
  | zero =>
    intro s t hs h
    cases h
    exact hs
  | succ k ih =>
    intro s t hs h
    obtain ⟨u, hu⟩ := step_answers s
    rw [run_succ_of_next core hu] at h
    exact ih (hP s u hs hu) h

/-- Settles O43, by induction on the number of steps, from O42 and O41. -/
theorem invariantInEveryReachableState : Obligations.InvariantInEveryReachableState := by
  intro turns k t h
  refine ⟨run_keeps stepKeepsInvariant k (s := { State.reset with turns := turns }) machineInv_reset h, fun hb => ?_⟩
  rw [engineStep, hb]
  rfl

end Sys2Proof.Machine
end

section
/-! Proofs of the family 10_state.md about the registers, the pending command, the events and the frame of the commands. -/

namespace Sys2Proof.Machine

/-! ### Registers -/

/-- The registers the host can only read (R33). -/
def readOnlyRegs : List Reg := [.id, .version, .status, .errcode, .outlen, .ctrCount, .blklen, .params]

theorem writeReg_readOnly (w : Word) (s : State) : ∀ r ∈ readOnlyRegs, writeReg r w s = s := by
  simp [readOnlyRegs, writeReg]

/-- Settles O10: a full-strobe write answers OKAY and takes the register's write effect. -/
theorem registerWritesByAccessKind : Obligations.RegisterWritesByAccessKind := by
  intro s w wr ok
  have hwr (r : Reg) : wr (BitVec.ofNat 17 (regOffset r)) = answer (.write false) (writeReg r w s) :=
    busAccess_writeReg r w s
  have hclear : wr 0x030 = answer (.write false) (clearEvents (w.setWidth 4) s) := hwr .intStatus
  refine ⟨fun a ha => ?_, hwr .src, hwr .dst, hwr .len, ?_, ?_, fun i hi => ?_⟩
  · obtain ⟨r, hr, rfl⟩ : ∃ r ∈ readOnlyRegs, BitVec.ofNat 17 (regOffset r) = a := List.mem_map.mp ha
    rw [hwr, writeReg_readOnly w s r hr]
    rfl
  · rw [BitVec.ofNat_toNat]
    exact hwr .intEnable
  · rw [hclear]
    rfl
  · rw [hclear, answer_intStatus, clearEvents_getLsbD _ _ hi]

/-- The six bits of STATUS, and that no other bit is set (R40). -/
theorem statusWord_bits (s : State) :
    (statusWord s).toNat < 64 ∧ (statusWord s).getLsbD 0 = s.busy ∧ (statusWord s).getLsbD 1 = s.done ∧
    (statusWord s).getLsbD 2 = s.err ∧ (statusWord s).getLsbD 3 = s.keyValid ∧ (statusWord s).getLsbD 4 = s.ctrOpen ∧
    (statusWord s).getLsbD 5 = s.padfmt := by
  unfold statusWord
  generalize s.busy = b0, s.done = b1, s.err = b2, s.keyValid = b3, s.ctrOpen = b4, s.padfmt = b5
  revert b0 b1 b2 b3 b4 b5
  decide

/-- Settles O9: a read answers with the register's value, whatever its strobes. -/
theorem registerReadValues : Obligations.RegisterReadValues := by
  intro s d strb value
  have hrd (r : Reg) : value (BitVec.ofNat 17 (regOffset r)) (readReg r s) := busAccess_readReg r d strb s
  simp only [BitVec.ofNat_toNat]
  exact ⟨hrd .id, hrd .version, hrd .ctrl, hrd .cmd, hrd .errcode, hrd .src, hrd .dst, hrd .len, hrd .outlen,
    hrd .ctrCount, hrd .blklen, hrd .intStatus, hrd .intEnable, hrd .params,
    statusWord s, hrd .status, statusWord_bits s⟩

/-! ### The pending command and the events -/

/-- Settles O19: none of the named fields is among those a transfer can change while a command is pending. -/
theorem pendingCommandIsUndisturbed : Obligations.PendingCommandIsUndisturbed := by
  intro x s hb hx t
  obtain ⟨_, _, _, _, _, _, ht⟩ := busAccess_frame_while_busy hb hx
  rw [show t = _ from ht]
  exact ⟨hb, rfl, rfl, rfl, rfl, rfl, ⟨rfl, rfl, rfl, rfl, rfl⟩, ⟨rfl, rfl, rfl⟩, sameDmem_of_mem_eq rfl rfl rfl,
    rfl, rfl, rfl, rfl, rfl⟩

/-- Settles O22: the host's part of the step keeps the bit, and the engine's part only sets bits, DONE_EV among them. -/
theorem eventsStayUntilCleared : Obligations.EventsStayUntilCleared := by
  refine ⟨fun s t i hst hi hr hc => ?_, fun s t x rest hb ht hx hst => ?_⟩
  · obtain ⟨u, hu, rfl | ⟨-, -, he⟩⟩ := step_parts_of_no_reset hst hr
    · exact hu.keeps_event hr hc hi
    · exact he.keeps_event (hu.keeps_event hr hc hi)
  · rw [step_hostAndEngine_busy hb ht] at hst
    obtain ⟨hbusy, -⟩ := pendingCommandIsUndisturbed x { s with turns := rest } hb hx
    rcases engineStep_cases hst with ⟨hidle, -⟩ | ⟨-, he⟩
    · rw [hbusy] at hidle
      cases hidle
    · exact he.doneEv_set

/-- Only the successful completion of a command that writes the stream changes it (R52, R61, R235). -/
theorem EngineEffect.stream_change {s t : State} (h : EngineEffect s t) :
    (¬SameStream s t → t.errcode = 0 ∧ ∃ i ∈ streamWriters, decode s.lcmd = .command i) ∧
    (t.nonce ≠ s.nonce → decode s.lcmd = .command .setNonce) := by
  cases h with
  | illegal => exact ⟨fun hn => absurd ⟨rfl, rfl, rfl⟩ hn, fun hn => absurd rfl hn⟩
  | error => exact ⟨fun hn => absurd ⟨rfl, rfl, rfl⟩ hn, fun hn => absurd rfl hn⟩
  | done i hd =>
    refine ⟨fun hn => ⟨rfl, i, ?_, hd⟩, fun hn => ?_⟩
    · by_contra hi
      exact hn (effectOf_stream hi s)
    · by_contra hne
      exact hn (effectOf_nonce (fun hi => hne (hi ▸ hd)) s)

/-- Settles O40: the host's part of a step without reset keeps the stream and the latch, so a change is the engine's. -/
theorem streamChangesOnlyByItsCommandsOrReset : Obligations.StreamChangesOnlyByItsCommandsOrReset := by
  intro s t hst hr
  obtain ⟨u, hu, hpart⟩ := step_parts_of_no_reset hst hr
  obtain ⟨hnonce, hcount, hopen⟩ := hu.stream hr
  rcases hpart with rfl | ⟨hb, -, he⟩
  · exact ⟨fun hn => absurd ⟨hnonce, hcount, hopen⟩ hn, fun hn => absurd hnonce hn⟩
  · obtain ⟨hstream, hset⟩ := he.stream_change
    rw [hu.lcmd hr hb] at hstream hset
    simp only [SameStream, hnonce, hcount, hopen] at hstream hset
    exact ⟨fun hn => ⟨hb, he.completion.1, hstream hn⟩, hset⟩

/-! ### Every command -/

/-- Settles O35: each of the two completions clears BUSY and sets DONE and DONE_EV. -/
theorem everyCommandCompletes : Obligations.EveryCommandCompletes := by
  refine ⟨fun i s => ?_, step_answers⟩
  obtain ⟨t, ht⟩ := exec_answers i s
  rcases exec_cases ht with ⟨c, -, rfl⟩ | ⟨-, rfl⟩
  · exact ⟨_, ht, rfl, rfl, by simp [doneEv]⟩
  · exact ⟨_, ht, rfl, rfl, by simp [doneEv]⟩

/-- An error completion changes no byte, key, stream register or PADFMT (R264). -/
theorem completeError_frame (c : ErrorCode) (s : State) :
    SameHostSide s (completeError c s) ∧ SameKeys s (completeError c s) ∧ SameStream s (completeError c s) ∧
    SameDmem s (completeError c s) :=
  ⟨⟨rfl, rfl, rfl, rfl, rfl, rfl, rfl, rfl, rfl, rfl, rfl, rfl⟩, ⟨rfl, rfl, rfl, rfl, rfl⟩, ⟨rfl, rfl, rfl⟩,
    sameDmem_of_mem_eq rfl rfl rfl⟩

/-- NOP, SET_KEYS and SET_NONCE write no byte of DMEM (R51). -/
theorem effectOf_dmem {i : Instr} (h : i = .nop ∨ i = .setKeys ∨ i = .setNonce) (s : State) :
    SameDmem s (effectOf i s) := by
  rcases h with rfl | rfl | rfl <;> exact sameDmem_of_mem_eq rfl rfl rfl

/-- Settles O37: an error completion writes none of it, and the effect of a command that passes has its own frame. -/
theorem commandFrame : Obligations.CommandFrame := by
  intro i s t h
  rcases exec_cases h with ⟨c, -, rfl⟩ | ⟨hc, rfl⟩
  · obtain ⟨hhost, hkeys, ⟨hnonce, hctr⟩, hdmem⟩ := completeError_frame c s
    exact ⟨hhost, fun _ => hkeys, fun _ => hnonce, fun _ _ _ _ => hctr, fun _ => rfl, fun _ => hdmem, fun _ => hdmem,
      fun x _ => (hdmem x).2⟩
  · obtain ⟨hhost, -⟩ := effectOf_frame i s
    obtain ⟨-, hlen, hout⟩ := output_of_pass hc
    have hctr (hk : i ≠ .setKeys) (hn : i ≠ .setNonce) (h0 : i ≠ .ctr) (h1 : i ≠ .ctrCont) :
        SameStream s (effectOf i s) := effectOf_stream (by simp [streamWriters, hk, hn, h0, h1]) s
    exact ⟨hhost, fun hi => effectOf_keys hi s, fun hi => effectOf_nonce hi s,
      fun hk hn h0 h1 => (hctr hk hn h0 h1).2, fun hi => effectOf_padfmt hi s, fun hi => effectOf_dmem hi s,
      fun he => absurd rfl he, hlen ▸ hout⟩

end Sys2Proof.Machine
end

section
/-! Proofs of the family 20_memory.md: what a transfer does in each region of the address map (R82), the byte lanes of the
DMEM window (R83 to R86), the responses (R87 to R89) and reads without side effect (R97). -/

namespace Sys2Proof.Machine

/-! ### The regions of the address map -/

theorem misaligned_eq_true {a : BusAddr} : misaligned a = true ↔ a.toNat % 4 ≠ 0 := bne_iff_ne

theorem misaligned_eq_false {a : BusAddr} : misaligned a = false ↔ a.toNat % 4 = 0 := by
  rw [misaligned, bne_eq_false_iff_eq]

/-- The offsets above the last register are reserved (R34). -/
theorem regAt_reserved {n : Nat} (h : 0x03C ≤ n) : regAt n = .reservedOffset := by
  unfold regAt
  split
  case h_16 => rfl
  all_goals omega

theorem targetOf_reserved {a : BusAddr} (hlo : 0x03C ≤ a.toNat) (hhi : a.toNat < 0x10000) :
    targetOf a = if a.toNat < 0x1000 then .reservedOffset else .reservedRegion := by
  rw [targetOf, regAt_reserved hlo, if_pos hhi]

/-- The register block is the lowest 4 KiB of the bus space (R82). -/
theorem lt_of_targetOf_block {a : BusAddr} (h : (∃ r, targetOf a = .reg r) ∨ targetOf a = .reservedOffset) :
    a.toNat < 0x1000 := by
  by_contra hge
  rw [targetOf, if_neg hge] at h
  split at h <;> simp at h

theorem targetOf_block {a : BusAddr} (h : a.toNat < 0x1000) :
    (∃ r, targetOf a = .reg r) ∨ targetOf a = .reservedOffset := by
  cases ht : targetOf a with
  | reg r => exact .inl ⟨r, rfl⟩
  | reservedOffset => exact .inr rfl
  | reservedRegion =>
    rw [targetOf, if_pos h] at ht
    exact absurd ht (regAt_ne_region _)
  | window base => exact absurd (targetOf_window.mp ht).1 (by omega)

/-! ### Aligned and misaligned transfers -/

/-- The answer of a transfer that returns no data: a read gives 0 (R34, R86, R88, R106). -/
def emptyReply (x : Transfer) (slverr : Bool) : Reply := if x.write then .write slverr else .read 0 slverr

/-- A misaligned transfer has no effect in any region and answers SLVERR (R88). -/
theorem busAccess_misaligned {x : Transfer} (h : x.addr.toNat % 4 ≠ 0) (s : State) :
    busAccess x s = answer (emptyReply x true) s := by
  rw [busAccess, if_pos (misaligned_eq_true.mpr h), emptyReply]
  split <;> rfl

theorem busAccess_aligned {x : Transfer} (h : x.addr.toNat % 4 = 0) (s : State) :
    busAccess x s = if x.write then busWrite x.addr x.data x.strobe s else busRead x.addr s := by
  rw [busAccess, misaligned_eq_false.mpr h, if_neg Bool.false_ne_true]

theorem busAccess_window {x : Transfer} (hal : x.addr.toNat % 4 = 0) (hwin : 0x10000 ≤ x.addr.toNat) (s : State) :
    busAccess x s =
      if s.busy then answer (emptyReply x false) (raiseEvents accessEv s)
      else if x.write then answer (.write false) (windowWrite (x.addr.toNat - 0x10000) x.data x.strobe s)
      else answer (.read (windowWord s (x.addr.toNat - 0x10000)) false) s := by
  have ht : targetOf x.addr = .window (x.addr.toNat - 0x10000) := targetOf_window.mpr ⟨hwin, rfl⟩
  rw [busAccess_aligned hal, busWrite, busRead, ht, emptyReply]
  dsimp only
  split <;> split <;> rfl

/-- Settles O16: the busy case of a window access. -/
theorem busyWindowAccessIsIgnored : Obligations.BusyWindowAccessIsIgnored := by
  intro x s hb hal hwin
  rw [busAccess_window hal hwin, if_pos hb]
  rfl

/-- Settles O12: both kinds of reserved address answer with no data and no error, the write at an offset having full
strobes. -/
theorem reservedAddressesReadZeroIgnoreWrites : Obligations.ReservedAddressesReadZeroIgnoreWrites := by
  intro x s hal hlo hhi hstrb
  rw [busAccess_aligned hal, busWrite, busRead, targetOf_reserved hlo hhi]
  by_cases hoff : x.addr.toNat < 0x1000
  · rw [if_pos hoff]
    cases hw : x.write
    · rfl
    · rw [hstrb hoff hw]
      rfl
  · rw [if_neg hoff]
    cases x.write <;> rfl

/-! ### The response -/

/-- A register-block write with partial strobes has no effect and answers SLVERR (R87). -/
theorem busWrite_partial {a : BusAddr} {strb : Strobe} (ha : a.toNat < 0x1000) (hs : strb ≠ 0b1111) (w : Word)
    (s : State) : busWrite a w strb s = answer (.write true) s := by
  rcases targetOf_block ha with ⟨r, ht⟩ | ht
  · rw [busWrite, ht]
    exact if_neg hs
  · rw [busWrite, ht, bne_iff_ne.mpr hs]

/-- Every other aligned write answers OKAY (R89). -/
theorem busWrite_okay {a : BusAddr} {strb : Strobe} (h : a.toNat < 0x1000 → strb = 0b1111) (w : Word) (s : State) :
    (busWrite a w strb s).reply = some (.write false) := by
  unfold busWrite
  split
  case h_1 r ht =>
    rw [if_pos (h (lt_of_targetOf_block (.inl ⟨r, ht⟩)))]
    rfl
  case h_2 ht =>
    rw [h (lt_of_targetOf_block (.inr ht))]
    rfl
  case h_3 => rfl
  case h_4 => split <;> rfl

/-- An aligned read answers OKAY (R89). -/
theorem busRead_okay (a : BusAddr) (s : State) : ∃ v, (busRead a s).reply = some (.read v false) := by
  unfold busRead
  split
  case h_4 => split <;> exact ⟨_, rfl⟩
  all_goals exact ⟨_, rfl⟩

/-- The transfers that R87 and R88 refuse. -/
def Erroneous (x : Transfer) : Prop :=
  x.addr.toNat % 4 ≠ 0 ∨ (x.write = true ∧ x.addr.toNat < 0x1000 ∧ x.strobe ≠ 0b1111)

theorem busAccess_erroneous {x : Transfer} (h : Erroneous x) (s : State) :
    busAccess x s = answer (emptyReply x true) s := by
  by_cases hal : x.addr.toNat % 4 = 0
  · obtain ⟨hw, ha, hs⟩ := h.resolve_left (not_not.mpr hal)
    rw [busAccess_aligned hal, if_pos hw, busWrite_partial ha hs, emptyReply, if_pos hw]
  · exact busAccess_misaligned hal s

theorem answeredSlverr_answer_emptyReply (x : Transfer) (e : Bool) (s : State) :
    answeredSlverr (answer (emptyReply x e) s) = e := by
  unfold emptyReply
  split <;> rfl

theorem answeredSlverr_busAccess_okay {x : Transfer} (h : ¬Erroneous x) (s : State) :
    answeredSlverr (busAccess x s) = false := by
  obtain ⟨hal, hfull⟩ := not_or.mp h
  rw [busAccess_aligned (not_not.mp hal), answeredSlverr]
  by_cases hw : x.write = true
  · rw [if_pos hw, busWrite_okay (fun ha => by by_contra hs; exact hfull ⟨hw, ha, hs⟩)]
  · obtain ⟨v, hv⟩ := busRead_okay x.addr s
    rw [if_neg hw, hv]

theorem answeredSlverr_busAccess (x : Transfer) (s : State) :
    answeredSlverr (busAccess x s) = true ↔ Erroneous x := by
  constructor
  · intro he
    by_contra hx
    rw [answeredSlverr_busAccess_okay hx] at he
    exact Bool.false_ne_true he
  · intro hx
    rw [busAccess_erroneous hx, answeredSlverr_answer_emptyReply]

/-- Settles O11: an erroneous transfer records SLVERR and nothing else, and any other answers OKAY. -/
theorem slverrExactlyForMisalignedOrPartial : Obligations.SlverrExactlyForMisalignedOrPartial := by
  refine fun x s => ⟨answeredSlverr_busAccess x s, fun he => ?_, fun hal hw => ?_⟩
  · rw [busAccess_erroneous ((answeredSlverr_busAccess x s).mp he)]
    rfl
  · rw [busAccess_misaligned hal, emptyReply, hw]
    rfl

/-! ### Reads -/

/-- A read does not see the port's last answer. -/
theorem busRead_answer (a : BusAddr) (r : Reply) (s : State) : busRead a (answer r s) = busRead a s := by
  unfold busRead
  split
  case h_1 q _ => cases q <;> rfl
  all_goals rfl

theorem busAccess_answer_of_read {x : Transfer} (hw : x.write = false) (r : Reply) (s : State) :
    busAccess x (answer r s) = busAccess x s := by
  simp only [busAccess, hw, Bool.false_eq_true, if_false, busRead_answer]
  rfl

/-- Any read but one of the window while busy changes the port's answer only (R97). -/
theorem busAccess_read_frame {x : Transfer} {s : State} (hw : x.write = false)
    (h : ¬(s.busy = true ∧ x.addr.toNat % 4 = 0 ∧ 0x10000 ≤ x.addr.toNat)) : ∃ r, busAccess x s = answer r s := by
  by_cases hal : x.addr.toNat % 4 = 0
  · rw [busAccess_aligned hal, hw, if_neg Bool.false_ne_true]
    unfold busRead
    split
    case h_4 base ht =>
      rw [if_neg (fun hb => h ⟨hb, hal, (targetOf_window.mp ht).1⟩)]
      exact ⟨_, rfl⟩
    all_goals exact ⟨_, rfl⟩
  · exact ⟨_, busAccess_misaligned hal s⟩

/-- Settles O20: the window while busy answers 0 each time; any other read leaves a state that differs in the port's answer
alone, which a read does not see. -/
theorem readsHaveNoSideEffect : Obligations.ReadsHaveNoSideEffect := by
  intro x s hw t
  by_cases h : s.busy = true ∧ x.addr.toNat % 4 = 0 ∧ 0x10000 ≤ x.addr.toNat
  · obtain ⟨hb, hal, hwin⟩ := h
    have ht : t = _ := busyWindowAccessIsIgnored x s hb hal hwin
    have hbt : t.busy = true := by rw [ht]; exact hb
    rw [busyWindowAccessIsIgnored x t hbt hal hwin, if_pos ⟨hb, hal, hwin⟩, ht]
    exact ⟨rfl, rfl⟩
  · obtain ⟨r, ht⟩ : ∃ r, t = answer r s := busAccess_read_frame hw h
    rw [if_neg h, ht, busAccess_answer_of_read hw]
    exact ⟨rfl, congrArg State.reply ht⟩

/-! ### The window while idle -/

/-- The bits from 8 up of a word that ends in the byte b are the bits of the word before it. -/
theorem extractLsb'_append_byte {v : Nat} (x : BitVec v) (b : Byte) (start : Nat) :
    (x ++ b).extractLsb' (start + 8) 8 = x.extractLsb' start 8 := by
  rw [BitVec.extractLsb'_append_eq_of_le (by omega), Nat.add_sub_cancel]

/-- Lane i of the window word at DMEM address `base` is byte base + i (R84). -/
theorem lane_windowWord (s : State) (base : Nat) {i : Nat} (hi : i < 4) :
    lane (windowWord s base) i = dmemByte s (base + i) := by
  unfold lane windowWord
  interval_cases i
  · exact BitVec.extractLsb'_append_eq_right
  · rw [extractLsb'_append_byte _ _ 0]
    exact BitVec.extractLsb'_append_eq_right
  · rw [extractLsb'_append_byte _ _ 8, extractLsb'_append_byte _ _ 0]
    exact BitVec.extractLsb'_append_eq_right
  · rw [extractLsb'_append_byte _ _ 16, extractLsb'_append_byte _ _ 8, extractLsb'_append_byte _ _ 0]
    exact BitVec.extractLsb'_eq_self

theorem dmemByte_windowWrite (base : Nat) (w : Word) (strb : Strobe) (s : State) (b : Nat) :
    dmemByte (windowWrite base w strb s) b =
      if base ≤ b ∧ b < base + 4 ∧ strb.getLsbD (b - base) = true then lane w (b - base) else dmemByte s b := by
  rw [dmemByte, windowWrite, memGet_windowLanes]
  split <;> rfl

/-- The bus address of the window word k (R83). -/
theorem windowAddr_toNat {k : Nat} (hk : k < 16384) : (BitVec.ofNat 17 (0x10000 + 4 * k)).toNat = 0x10000 + 4 * k := by
  rw [BitVec.toNat_ofNat]
  omega

/-- An idle window transfer at word k reads or writes the four bytes from 4k (R84, R85). -/
theorem busAccess_windowAddr_idle {s : State} {k : Nat} (hb : s.busy = false) (hk : k < 16384) (write : Bool) (d : Word)
    (strb : Strobe) :
    busAccess ⟨write, BitVec.ofNat 17 (0x10000 + 4 * k), d, strb⟩ s =
      if write then answer (.write false) (windowWrite (4 * k) d strb s)
      else answer (.read (windowWord s (4 * k)) false) s := by
  have ha := windowAddr_toNat hk
  rw [busAccess_window (by dsimp only; omega) (by dsimp only; omega), hb, if_neg Bool.false_ne_true]
  dsimp only
  rw [ha, Nat.add_sub_cancel_left]

/-- Settles O13, lane by lane, from the idle cases of a window access. -/
theorem idleWindowLanes : Obligations.IdleWindowLanes := by
  intro s k d strb hb hk a r t
  have hr : r = _ := busAccess_windowAddr_idle hb hk false d strb
  have ht : t = _ := busAccess_windowAddr_idle hb hk true d strb
  refine ⟨⟨windowWord s (4 * k), hr, fun i hi => lane_windowWord s (4 * k) hi⟩, ?_, fun b => ?_⟩
  · rw [ht]
    rfl
  · rw [ht]
    exact dmemByte_windowWrite (4 * k) d strb s b

theorem lane_toNat (w : Word) (i : Nat) : (lane w i).toNat = w.toNat / 2 ^ (8 * i) % 256 := by
  rw [lane, BitVec.extractLsb'_toNat, Nat.shiftRight_eq_div_pow]

/-- A full-strobe window write stores the four lanes, lane 0 first (R85). -/
theorem readBytes_windowWrite (base : Nat) (w : Word) (s : State) :
    readBytes (windowWrite base w 0b1111 s) base 4 = [lane w 0, lane w 1, lane w 2, lane w 3] := by
  simp [readBytes, List.range_succ, dmemByte_windowWrite]

/-- Lane 0, the low byte of the word, is the most significant byte of the field (R90). -/
theorem be_lanes (w : Word) :
    be [lane w 0, lane w 1, lane w 2, lane w 3] =
      (w.toNat % 256) * 2 ^ 24 + (w.toNat / 2 ^ 8 % 256) * 2 ^ 16 + (w.toNat / 2 ^ 16 % 256) * 2 ^ 8 + w.toNat / 2 ^ 24 := by
  simp only [be_cons, be_nil, lane_toNat, List.length_cons, List.length_nil]
  omega

/-- Settles O15: the field holds the four lanes of the word stored. -/
theorem windowWordReadsByteReversed : Obligations.WindowWordReadsByteReversed := by
  intro s k d hb hk
  have hbytes : readBytes (answer (.write false) (windowWrite (4 * k) d 0b1111 s)) (4 * k) 4 = _ :=
    (readBytes_congr rfl rfl rfl _ _).trans (readBytes_windowWrite (4 * k) d s)
  rw [busAccess_windowAddr_idle hb hk, if_pos rfl, hbytes, be_lanes]

end Sys2Proof.Machine
end

section
/-! Proofs of the family 30_encoding.md about the command word: its fields as numbers (R120), the legal and the illegal
words (R122, R125 to R127), and how a word comes to run (R121, R267). -/

namespace Sys2Proof.Machine

/-! ### The fields of a word -/

theorem opField_toNat (w : Word) : (opField w).toNat = w.toNat % 16 := by
  rw [opField, BitVec.extractLsb'_toNat, Nat.shiftRight_zero]

theorem rsvdField_toNat (w : Word) : (rsvdField w).toNat = w.toNat / 32 := by
  rw [rsvdField, BitVec.extractLsb'_toNat, Nat.shiftRight_eq_div_pow]
  omega

theorem contField_eq_true {w : Word} : contField w = true ↔ w.toNat / 16 % 2 = 1 := by
  rw [contField, BitVec.getLsbD, Nat.testBit_eq_decide_div_mod_eq, decide_eq_true_iff]

/-- OP, CONT and RSVD are the whole word (R120). -/
theorem word_eq_of_fields {v w : Word} (hop : opField v = opField w) (hcont : contField v = contField w)
    (hrsvd : rsvdField v = rsvdField w) : v = w := by
  have h0 := congrArg BitVec.toNat hop
  have h1 := congrArg (· = true) hcont
  have h2 := congrArg BitVec.toNat hrsvd
  simp only [opField_toNat, contField_eq_true, rsvdField_toNat, eq_iff_iff] at h0 h1 h2
  exact BitVec.eq_of_toNat_eq (by omega)

theorem rsvdClear_eq_true {w : Word} : rsvdClear w = true ↔ w.toNat / 32 = 0 := by
  rw [rsvdClear, beq_iff_eq, ← BitVec.toNat_inj, rsvdField_toNat]
  rfl

theorem contAllowed_eq_true {w : Word} : contAllowed w = true ↔ (w.toNat / 16 % 2 = 1 → w.toNat % 16 = 7) := by
  have hop : opField w = 7 ↔ w.toNat % 16 = 7 := by
    rw [← BitVec.toNat_inj, opField_toNat]
    rfl
  rw [contAllowed, Bool.or_eq_true, beq_iff_eq, hop, ← contField_eq_true]
  cases contField w <;> simp

theorem opAssigned_eq_true {w : Word} : opAssigned w = true ↔ w.toNat % 16 ≤ 9 := by
  rw [opAssigned, decide_eq_true_iff, opField_toNat]

/-- The three cases of R125, read off the bits of the word. -/
def IllegalBits (w : Word) : Prop :=
  w.toNat / 32 ≠ 0 ∨ (w.toNat / 16 % 2 = 1 ∧ w.toNat % 16 ≠ 7) ∨ 10 ≤ w.toNat % 16

theorem legalWord_eq_true {w : Word} : legalWord w = true ↔ ¬IllegalBits w := by
  rw [legalWord, Bool.and_eq_true, Bool.and_eq_true, rsvdClear_eq_true, contAllowed_eq_true, opAssigned_eq_true,
    IllegalBits]
  omega

/-! ### Decoding -/

@[simp] theorem decode_encode (i : Instr) : decode (encode i) = .command i := by cases i <;> rfl

/-- A word decodes to a command exactly when its reserved bits are clear, CONT is allowed, and OP names the command
(R127). -/
theorem decode_eq_command {w : Word} {i : Instr} :
    decode w = .command i ↔
      rsvdClear w = true ∧ contAllowed w = true ∧ commandOf (opField w) (contField w) = .command i := by
  unfold decode
  cases rsvdClear w <;> cases contAllowed w <;> simp

/-- OP names a command exactly when it is one of 0x0 to 0x9 (R122). -/
theorem commandOf_answers_command (op : BitVec 4) (cont : Bool) :
    (∃ i, commandOf op cont = .command i) ↔ op.toNat ≤ 9 := by
  unfold commandOf
  split
  case h_11 => exact ⟨nofun, fun h => by interval_cases op.toNat <;> contradiction⟩
  all_goals simp [*]

/-- A word is a command exactly when it is legal (R126). -/
theorem decode_answers_command (w : Word) : (∃ i, decode w = .command i) ↔ legalWord w = true := by
  simp only [decode_eq_command, exists_and_left, commandOf_answers_command, legalWord, opAssigned, Bool.and_eq_true,
    decide_eq_true_iff, and_assoc]

theorem decode_answers_illegal (w : Word) : (∃ why, decode w = .illegal why) ↔ IllegalBits w := by
  rw [← not_iff_not, ← legalWord_eq_true, ← decode_answers_command]
  cases decode w <;> simp

theorem contField_eq_false {w : Word} (h : contAllowed w = true) (hop : opField w ≠ 7) : contField w = false := by
  rw [contAllowed, beq_false_of_ne hop, Bool.or_false] at h
  simpa using h

/-- The CONT field of a word that decodes to a command is the command's: it chooses between the two words of OP 0x7, and
with any other OP it is 0 (R122, R125). -/
theorem contField_of_decode {w : Word} {i : Instr} (h : decode w = .command i) :
    contField w = contField (encode i) := by
  obtain ⟨-, hallowed, hcmd⟩ := decode_eq_command.mp h
  by_cases hop : opField w = 7
  · rw [hop] at hcmd
    cases hc : contField w <;> rw [hc] at hcmd <;> cases hcmd <;> rfl
  · obtain ⟨-, hallowed', -⟩ := decode_eq_command.mp (decode_encode i)
    rw [contField_eq_false hallowed hop, contField_eq_false hallowed' (opField_of_decode h ▸ hop)]

/-- Settles O2: a word that decodes to a command has the three fields of the command's word, and a word that does not is
one of the illegal ones. -/
theorem decodeIsTotalAndAgreesWithEncode : Obligations.DecodeIsTotalAndAgreesWithEncode := by
  refine fun w => ⟨fun i => ⟨fun h => ?_, fun h => h ▸ decode_encode i⟩, decode_answers_illegal w⟩
  have rsvd_zero {v : Word} (hv : decode v = .command i) : rsvdField v = 0 :=
    eq_of_beq (decode_eq_command.mp hv).1
  exact word_eq_of_fields (opField_of_decode h) (contField_of_decode h)
    ((rsvd_zero h).trans (rsvd_zero (decode_encode i)).symm)

/-- Settles O1: the words are the encoder's, and an OP above 0x9 names no command. -/
theorem decodeOpcodeMapWords : Obligations.DecodeOpcodeMapWords :=
  ⟨decode_encode .nop, decode_encode .setKeys, decode_encode .setNonce, decode_encode .modexpPub,
    decode_encode .modexpPrv, decode_encode .ecbEnc, decode_encode .ecbDec, decode_encode .ctr, decode_encode .ctrCont,
    decode_encode .montmul, decode_encode .barrett, by
    simp only [List.forall_mem_cons]
    exact ⟨rfl, rfl, rfl, rfl, rfl, rfl, List.forall_mem_nil _⟩⟩

/-! ### The start and the completion of a word -/

/-- A CMD write while idle starts the word, legal or not (R267). -/
theorem busAccess_cmd_idle {s : State} (hb : s.busy = false) (w : Word) :
    busAccess ⟨true, 0x0000C, w, 0b1111⟩ s = answer (.write false) (startCommand w s) := by
  have hcmd : writeCmd w s = startCommand w s := by rw [writeCmd, hb, if_neg Bool.false_ne_true]
  exact hcmd ▸ busAccess_writeReg .cmd w s

theorem engineStep_of_illegal {s : State} {why : IllegalWord} (hb : s.busy = true) (hd : decode s.lcmd = .illegal why) :
    engineStep s = .next (completeError .illegalCmd s) := by
  rw [engineStep, if_pos hb, runPending, hd]

theorem engineStep_of_command {s : State} {i : Instr} (hb : s.busy = true) (hd : decode s.lcmd = .command i) :
    engineStep s = exec i s := by
  rw [engineStep, if_pos hb, runPending, hd]

/-- An error completion records its code and changes nothing else (R264, R265). -/
theorem failedWith_completeError (c : ErrorCode) (s : State) : FailedWith c s (completeError c s) :=
  ⟨rfl, rfl, rfl, rfl, rfl, rfl, rfl, completeError_frame c s⟩

/-- Settles O3: the write latches the word whatever it is, and the engine's step fails the one that decodes to none. -/
theorem illegalWordCompletesWithIllegalCmd : Obligations.IllegalWordCompletesWithIllegalCmd := by
  refine ⟨?_, fun w hw => (decode_answers_command w).mpr (legalWord_eq_true.mpr hw)⟩
  intro s w hb hw u
  obtain ⟨why, hd⟩ := (decode_answers_illegal w).mpr hw
  have hu : u = answer (.write false) (startCommand w s) := busAccess_cmd_idle hb w
  rw [hu]
  exact ⟨rfl, rfl, _, engineStep_of_illegal rfl hd, failedWith_completeError _ _⟩

theorem withFetchWord_toNat (s : State) (w : Word) : s.withFetchWord 32 w.toNat = placeCommand w s := by
  rw [State.withFetchWord, Nat.mod_eq_of_lt w.isLt, BitVec.ofNat_toNat, BitVec.setWidth_eq]

/-- The placed word is the engine's next turn. -/
theorem step_placeCommand (w : Word) (s : State) : step (placeCommand w s) = engineStep (startCommand w s) := rfl

/-- Settles O5: the step is the engine's, on the state of a command just started. -/
theorem placedWordRunsNext : Obligations.PlacedWordRunsNext := by
  intro s i
  rw [withFetchWord_toNat, step_placeCommand]
  exact engineStep_of_command (s := startCommand (encode i) s) rfl (decode_encode i)

end Sys2Proof.Machine
end

section
/-! Proofs of the family 30_encoding.md about the pseudo-instruction `DMEM <off>: <bytes>` (R130): each of its lines is
one strobed window write, and the host runs them in order. -/

namespace Sys2Proof.Machine

/-! ### One line -/

/-- Lane i of a word put together from four bytes; the window word of a machine that holds them is such a word (R84). -/
theorem lane_append (b : Nat → Byte) {i : Nat} (hi : i < 4) : lane (b 3 ++ b 2 ++ b 1 ++ b 0) i = b i := by
  have h := lane_windowWord { State.reset with mem := [(0, b 0), (1, b 1), (2, b 2), (3, b 3)] } 0 hi
  interval_cases i <;> exact h

theorem lane_dmemLineWord (off : Nat) (bytes : List Byte) (base : Nat) {i : Nat} (hi : i < 4) :
    lane (dmemLineWord off bytes base) i = (dmemLane off bytes base i).getD 0 :=
  lane_append (fun i => (dmemLane off bytes base i).getD 0) hi

/-- Bit i of a strobe put together from four bits. -/
theorem getLsbD_sum (b : Nat → Bool) {i : Nat} (hi : i < 4) :
    (BitVec.ofNat 4 ((b 0).toNat + (b 1).toNat * 2 + (b 2).toNat * 4 + (b 3).toNat * 8)).getLsbD i = b i := by
  have hbits : ∀ b0 b1 b2 b3 : Bool,
      let v := BitVec.ofNat 4 (b0.toNat + b1.toNat * 2 + b2.toNat * 4 + b3.toNat * 8)
      v.getLsbD 0 = b0 ∧ v.getLsbD 1 = b1 ∧ v.getLsbD 2 = b2 ∧ v.getLsbD 3 = b3 := by decide
  obtain ⟨h0, h1, h2, h3⟩ := hbits (b 0) (b 1) (b 2) (b 3)
  interval_cases i <;> assumption

theorem getLsbD_dmemLineStrobe (off : Nat) (bytes : List Byte) (base : Nat) {i : Nat} (hi : i < 4) :
    (dmemLineStrobe off bytes base).getLsbD i = (dmemLane off bytes base i).isSome :=
  getLsbD_sum (fun i => (dmemLane off bytes base i).isSome) hi

/-- The byte a `DMEM` line puts at an address, if it puts one there (R130). -/
def lineByte (off : Nat) (bytes : List Byte) (a : Nat) : Option Byte := dmemLane off bytes a 0

theorem lineByte_getD (off : Nat) (bytes : List Byte) (a : Nat) (old : Byte) :
    (lineByte off bytes a).getD old =
      if h : off ≤ a ∧ a < off + bytes.length then bytes[a - off]'(by omega) else old := by
  unfold lineByte dmemLane
  split
  · rw [dif_neg (by omega)]
    rfl
  · split
    · rw [Nat.add_zero, List.getElem?_eq_getElem (by omega)]
      rfl
    · rw [List.getElem?_eq_none (by omega)]
      rfl

/-- One line puts its bytes at the four addresses of its word and leaves all others. -/
theorem dmemByte_windowWrite_line (off : Nat) (bytes : List Byte) (base : Nat) (s : State) (a : Nat) :
    dmemByte (windowWrite base (dmemLineWord off bytes base) (dmemLineStrobe off bytes base) s) a =
      if base ≤ a ∧ a < base + 4 then (lineByte off bytes a).getD (dmemByte s a) else dmemByte s a := by
  rw [dmemByte_windowWrite]
  by_cases h : base ≤ a ∧ a < base + 4
  · obtain ⟨i, rfl⟩ := Nat.exists_eq_add_of_le h.1
    have hi : i < 4 := by omega
    have hl : lineByte off bytes (base + i) = dmemLane off bytes base i := rfl
    rw [Nat.add_sub_cancel_left, getLsbD_dmemLineStrobe _ _ _ hi, lane_dmemLineWord _ _ _ hi, if_pos h, hl]
    cases dmemLane off bytes base i <;> simp [hi]
  · rw [if_neg h, if_neg (fun h' => h ⟨h'.1, h'.2.1⟩)]

/-! ### All lines -/

/-- A DMEM line touches the words from that of its first byte to that of its last. -/
theorem lineDmem_length (off : Nat) (bytes : List Byte) :
    (lineDmem off bytes).length =
      if bytes.length = 0 then 0 else (off + bytes.length - 1) / 4 - off / 4 + 1 := by
  unfold lineDmem
  split <;> simp

theorem lineDmem_getElem? {off : Nat} {bytes : List Byte} {j : Nat} (hj : j < (lineDmem off bytes).length) :
    (lineDmem off bytes)[j]? =
      some (.wrb (BitVec.ofNat 17 (0x10000 + 4 * (off / 4 + j))) (dmemLineWord off bytes (4 * (off / 4 + j)))
        (dmemLineStrobe off bytes (4 * (off / 4 + j)))) := by
  have hne : bytes.length ≠ 0 := fun h0 => by simp [lineDmem_length, h0] at hj
  rw [lineDmem_length, if_neg hne] at hj
  simp [lineDmem, hne, hj, Nat.mul_comm 4]

theorem hostStep_wrb {r : HostRun} {a : BusAddr} {v : Word} {strb : Strobe}
    (h : r.lines[r.pos]? = some (.wrb a v strb)) :
    hostStep r = { r with pos := r.pos + 1, hw := busAccess ⟨true, a, v, strb⟩ r.hw } := by
  rw [hostStep, h]

/-- A run in which the host moves alone is its steps. -/
theorem hostRun_replicate_false (n : Nat) (r : HostRun) : hostRun (List.replicate n false) r = hostStep^[n] r := by
  induction n generalizing r with
  | zero => rfl
  | succ n ih => exact ih (hostStep r)

/-- The run r has executed the first j lines of a DMEM pseudo-instruction begun on the machine s. -/
structure DmemLinesRun (off : Nat) (bytes : List Byte) (s : State) (j : Nat) (r : HostRun) : Prop where
  lines : r.lines = lineDmem off bytes
  pos : r.pos = j
  idle : r.hw.busy = false
  stored : ∀ a, dmemByte r.hw a =
    if a / 4 < off / 4 + j then (lineByte off bytes a).getD (dmemByte s a) else dmemByte s a

/-- The bytes stand in DMEM, so the word of every line is a window word. -/
theorem window_word_of_line {off : Nat} {bytes : List Byte} {j : Nat} (h : off + bytes.length ≤ 65536)
    (hj : j < (lineDmem off bytes).length) : off / 4 + j < 16384 := by
  rw [lineDmem_length] at hj
  split at hj <;> omega

/-- The next line adds the four addresses of its word to those already written. -/
theorem DmemLinesRun.step {off : Nat} {bytes : List Byte} {s : State} {j : Nat} {r : HostRun}
    (h : off + bytes.length ≤ 65536) (hj : j < (lineDmem off bytes).length) (hr : DmemLinesRun off bytes s j r) :
    DmemLinesRun off bytes s (j + 1) (hostStep r) := by
  obtain ⟨hlines, rfl, hidle, hstored⟩ := hr
  rw [hostStep_wrb (hlines ▸ lineDmem_getElem? hj), busAccess_windowAddr_idle hidle (window_word_of_line h hj)]
  refine ⟨hlines, rfl, hidle, fun a => (dmemByte_windowWrite_line off bytes _ r.hw a).trans ?_⟩
  rw [hstored]
  by_cases hnew : a / 4 = off / 4 + r.pos
  · rw [if_pos (by omega), if_neg (by omega), if_pos (by omega)]
  · rw [if_neg (by omega)]
    exact if_congr (by omega) rfl rfl

theorem dmemLinesRun_iterate {off : Nat} {bytes : List Byte} {s : State} (h : off + bytes.length ≤ 65536)
    (hb : s.busy = false) (j : Nat) (hj : j ≤ (lineDmem off bytes).length) :
    DmemLinesRun off bytes s j (hostStep^[j] ⟨lineDmem off bytes, 0, [], s⟩) := by
  induction j with
  | zero => exact ⟨rfl, rfl, hb, fun a => by
      split
      · rw [lineByte_getD, dif_neg (by omega)]
        rfl
      · rfl⟩
  | succ j ih =>
    rw [Function.iterate_succ_apply']
    exact (ih (by omega)).step h hj

/-- Settles O14: after its last line every byte of the string stands in a word written. -/
theorem dmemLineStoresItsBytes : Obligations.DmemLineStoresItsBytes := by
  intro s off bytes h hb lines r
  have hr : r = hostStep^[lines.length] ⟨lines, 0, [], s⟩ := hostRun_replicate_false _ _
  have hdone : DmemLinesRun off bytes s lines.length r := hr ▸ dmemLinesRun_iterate h hb _ le_rfl
  refine ⟨?_, fun a => ?_⟩
  · simp [hostRunOver, hdone.lines, hdone.pos, hdone.idle, lines]
  · rw [hdone.stored, ← lineByte_getD]
    split
    · rfl
    · rename_i hlast
      simp only [lines, lineDmem_length] at hlast
      rw [lineByte_getD, dif_neg (by split at hlast <;> omega)]

end Sys2Proof.Machine
end

section
/-! Facts the command rules share: how a command ends once its checks and its effect are known, and what a big register
holds after a load (10_state.md R57). -/

namespace Sys2Proof.Machine

/-- The successful completion of a command writes what R266 says, whatever the command's effect. -/
theorem completedOk_effectOf (i : Instr) (s : State) : CompletedOk s (completeOk (effectOf i s)) := by
  obtain ⟨-, -, -, -, -, hev⟩ := effectOf_frame i s
  exact ⟨rfl, rfl, rfl, rfl, by rw [completeOk_intStatus, hev]; rfl⟩

/-- A command ends as its rule says when the machine's checks are the rule's list and, where they pass, the machine's
effect is the rule's (R150, R264 to R266). -/
theorem endsBy_of_check {i : Instr} {checks : State → Option ErrorCode} {effect : State → State → Prop}
    (hc : ∀ s, check i s = checks s) (he : ∀ s, check i s = none → effect s (completeOk (effectOf i s))) :
    EndsBy i checks effect := by
  intro s
  rw [← hc s]
  exact ⟨fun c hs => ⟨_, exec_of_error hs, failedWith_completeError c s⟩,
    fun hs => ⟨_, exec_of_pass hs, completedOk_effectOf i s, (effectOf_frame i s).1, he s hs⟩⟩

/-- A big register holds the value of any string of at most MAX_BYTES bytes (R9, R57). -/
theorem ofNat_be_toNat {b : List Byte} (h : b.length ≤ 512) : (BitVec.ofNat 4096 (be b)).toNat = be b := by
  rw [BitVec.toNat_ofNat]
  refine Nat.mod_eq_of_lt ?_
  calc be b < 256 ^ b.length := be_lt b
    _ = 2 ^ (8 * b.length) := (montRadix_eq b.length).symm
    _ ≤ 2 ^ 4096 := Nat.pow_le_pow_right (by omega) (by omega)

end Sys2Proof.Machine
end

section
/-! Proofs of the family 40_key_engine.md: NOP and SET_KEYS (R152, R153), the key registers seen from the port (R157) and
what can change them (R158). -/

namespace Sys2Proof.Machine

/-! ### NOP -/

/-- A CMD write while a command is pending is lost, whatever its word (R268). -/
theorem busAccess_cmd_busy {s : State} (hb : s.busy = true) (w : Word) :
    busAccess ⟨true, 0x0000C, w, 0b1111⟩ s = answer (.write false) (raiseEvents overrunEv s) := by
  have hcmd : writeCmd w s = raiseEvents overrunEv s := by rw [writeCmd, if_pos hb]
  exact hcmd ▸ busAccess_writeReg .cmd w s

/-- Settles O25: NOP has no check and its effect is OUTLEN = 0; while busy its CMD write is lost as any other. -/
theorem nopOnlyCompletes : Obligations.NopOnlyCompletes :=
  ⟨endsBy_of_check check_nop fun s _ =>
      ⟨rfl, rfl, effectOf_keys (i := .nop) (by decide) s, effectOf_stream (i := .nop) (by decide) s,
        effectOf_dmem (.inl rfl) s⟩,
    fun _ hb => busAccess_cmd_busy hb (encode .nop)⟩

/-! ### SET_KEYS -/

/-- A field of LLEN bytes, taken out of the triple, is the string at its own address (R153). -/
theorem ofNat_be_slice_readBytes (s : State) (a : Nat) {n i j l : Nat} (hj : j = i + l) (hn : j ≤ n) (hl : l ≤ 512) :
    (BitVec.ofNat 4096 (be (slice (readBytes s a n) i j))).toNat = be (readBytes s (a + i) l) := by
  subst hj
  rw [slice_readBytes s a n i l hn, ofNat_be_toNat (by rwa [readBytes_length])]

/-- Settles O26: the checks bound LLEN by MAX_BYTES, so each register holds its whole field and NB holds LLEN. -/
theorem setKeysInstallsKeypair : Obligations.SetKeysInstallsKeypair := by
  refine endsBy_of_check check_setKeys fun s hc => ?_
  obtain ⟨-, hl⟩ := setKeys_len_of_pass hc
  exact ⟨ofNat_be_slice_readBytes s _ (by omega) (by omega) hl, ofNat_be_slice_readBytes s _ (by omega) (by omega) hl,
    ofNat_be_slice_readBytes s _ (by omega) (by omega) hl, Nat.mod_eq_of_lt (by omega),
    rfl, rfl, rfl, rfl, rfl, rfl, effectOf_dmem (.inr (.inl rfl)) s⟩

/-! ### The port does not show the key registers -/

/-- The answer to a write does not depend on the state at all (R87, R89). -/
theorem busWrite_reply_congr (a : BusAddr) (w : Word) (strb : Strobe) (s u : State) :
    (busWrite a w strb u).reply = (busWrite a w strb s).reply := by
  unfold busWrite
  cases targetOf a with
  | reg r => dsimp only; split <;> rfl
  | reservedOffset => rfl
  | reservedRegion => rfl
  | window base => dsimp only; split <;> split <;> rfl

/-- The answer to a read depends on the readable registers, on BUSY and on DMEM only (R82, R84, R86). -/
theorem busRead_reply_congr (a : BusAddr) {s u : State} (hreg : ∀ r, readReg r u = readReg r s) (hb : u.busy = s.busy)
    (hwin : ∀ base, windowWord u base = windowWord s base) : (busRead a u).reply = (busRead a s).reply := by
  unfold busRead
  cases targetOf a with
  | reg r => simp only [answer_reply, hreg]
  | reservedOffset => rfl
  | reservedRegion => rfl
  | window base => simp only [hb, hwin]; split <;> rfl

/-- Settles O24: no readable register and no byte of DMEM shows N, E, D or NONCE. -/
theorem keyRegistersAreNotReadable : Obligations.KeyRegistersAreNotReadable := by
  intro x s n e d c
  by_cases hal : x.addr.toNat % 4 = 0
  · rw [busAccess_aligned hal, busAccess_aligned hal]
    split
    · exact busWrite_reply_congr ..
    · exact busRead_reply_congr _ (fun r => by cases r <;> rfl) rfl (fun _ => rfl)
  · rw [busAccess_misaligned hal, busAccess_misaligned hal]
    rfl

/-! ### What changes the keypair -/

/-- No transfer but a soft reset writes the keypair: the host has no register for it (R157, R158). -/
theorem busAccess_keys {x : Transfer} {s : State} (hx : isSoftReset x = false) : SameKeys s (busAccess x s) := by
  obtain ⟨r, u, hu, he⟩ := busAccess_cases x s
  rw [hu]
  cases he
  case reset hr => simp [hx] at hr
  all_goals exact ⟨rfl, rfl, rfl, rfl, rfl⟩

theorem HostPart.keys {s u : State} (h : HostPart s u) (hr : resetNext s = false) : SameKeys s u := by
  cases h with
  | idle => exact ⟨rfl, rfl, rfl, rfl, rfl⟩
  | access x hx => exact busAccess_keys (s := popTurn s) ((resetNext_eq_false hr).2 x hx)

theorem SameKeys.trans {s u t : State} (hsu : SameKeys s u) (hut : SameKeys u t) : SameKeys s t := by
  obtain ⟨hn, he, hd, hnb, hv⟩ := hsu
  obtain ⟨hn', he', hd', hnb', hv'⟩ := hut
  exact ⟨hn'.trans hn, he'.trans he, hd'.trans hd, hnb'.trans hnb, hv'.trans hv⟩

/-- Only the successful completion of SET_KEYS changes the keypair (R158). -/
theorem EngineEffect.keys_change {s t : State} (h : EngineEffect s t) (hn : ¬SameKeys s t) :
    decode s.lcmd = .command .setKeys ∧ t.errcode = 0 := by
  cases h with
  | illegal => exact absurd (completeError_frame _ s).2.1 hn
  | error i c => exact absurd (completeError_frame c s).2.1 hn
  | done i hd =>
    have hi : i = .setKeys := by
      by_contra hi
      exact hn (effectOf_keys hi s)
    exact ⟨hi ▸ hd, rfl⟩

/-- Settles O39: the host's part of a step without reset keeps the keypair and the latch, so a change is the engine's. -/
theorem keysChangeOnlyBySetKeysOrReset : Obligations.KeysChangeOnlyBySetKeysOrReset := by
  intro s t hst hn
  refine (Bool.eq_false_or_eq_true (resetNext s)).imp_right fun hr => ?_
  obtain ⟨u, hu, rfl | ⟨hb, -, he⟩⟩ := step_parts_of_no_reset hst hr
  · exact absurd (hu.keys hr) hn
  · obtain ⟨hd, hok⟩ := he.keys_change fun hut => hn ((hu.keys hr).trans hut)
    exact ⟨hb, hu.lcmd hr hb ▸ hd, he.completion.1, hok⟩

end Sys2Proof.Machine
end

section
/-! Facts the commands with an output share: what a command that only writes its output leaves, what an error-free command
did, and that the RSA exponents of a valid key undo each other (41_modexp_arith.md R176). -/

namespace Sys2Proof.Machine

/-- A command that ended without error passed its checks and took its effect. -/
theorem exec_of_errcode_zero {i : Instr} {s t : State} (h : exec i s = .next t) (h0 : t.errcode = 0) :
    check i s = none ∧ t = completeOk (effectOf i s) := by
  rcases exec_cases h with ⟨c, -, rfl⟩ | hpass
  · exact absurd h0 (errorValue_ne_zero c)
  · exact hpass

/-- A command without error left its output at LDST (R51). -/
theorem output_of_errcode_zero {i : Instr} {s t : State} (h : exec i s = .next t) (h0 : t.errcode = 0) :
    OutputIs (outputOf i s) s t := by
  obtain ⟨hc, rfl⟩ := exec_of_errcode_zero h h0
  exact output_of_pass hc

/-- A command that is none of the writers of keys, stream and PADFMT stores its output and changes nothing else. -/
theorem onlyOutput_of_pass {i : Instr} {s : State} (hi : i ∉ .ecbDec :: streamWriters) (hc : check i s = none) :
    OutputIs (outputOf i s) s (completeOk (effectOf i s)) ∧ SameKeys s (completeOk (effectOf i s)) ∧
    SameStream s (completeOk (effectOf i s)) ∧ (completeOk (effectOf i s)).padfmt = s.padfmt := by
  obtain ⟨hdec, hstream⟩ : i ≠ .ecbDec ∧ i ∉ streamWriters := by simpa using hi
  have hkeys : i ≠ .setKeys := by
    rintro rfl
    exact hstream (by decide)
  exact ⟨output_of_pass hc, effectOf_keys hkeys s, effectOf_stream hstream s, effectOf_padfmt hdec s⟩

/-! ### The key equation -/

/-- Fermat: modulo a prime p, an exponent that is 1 more than a multiple of p - 1 changes nothing. -/
theorem pow_succ_modEq_of_prime {p m : Nat} (hp : p.Prime) (hm : p - 1 ∣ m) (x : Nat) : x ^ (m + 1) ≡ x [MOD p] := by
  by_cases hx : p ∣ x
  · have hx0 : x ≡ 0 [MOD p] := Nat.modEq_zero_iff_dvd.mpr hx
    exact (Nat.modEq_zero_iff_dvd.mpr (dvd_pow hx m.succ_ne_zero)).trans hx0.symm
  · obtain ⟨c, rfl⟩ := hm
    have hunit : x ^ (p - 1) ≡ 1 [MOD p] := by
      rw [← Nat.totient_prime hp]
      exact Nat.ModEq.pow_totient ((Nat.Prime.coprime_iff_not_dvd hp).mpr hx).symm
    calc x ^ ((p - 1) * c + 1) = (x ^ (p - 1)) ^ c * x := by rw [pow_succ, pow_mul]
      _ ≡ 1 ^ c * x [MOD p] := (hunit.pow c).mul_right x
      _ = x := by rw [one_pow, one_mul]

/-- With a valid RSA key the power E followed by the power D is the identity modulo N (R176). -/
theorem RsaKey.pow_pow_mod {p q : Nat} {s : State} (h : RsaKey p q s) (x : Nat) :
    (x ^ s.keyE.toNat % s.keyN.toNat) ^ s.keyD.toNat % s.keyN.toNat = x % s.keyN.toNat := by
  obtain ⟨hp, hq, hne, -, -, hn, hed⟩ := h
  generalize s.keyE.toNat = e at hed ⊢
  generalize s.keyD.toNat = d at hed ⊢
  have hpos : 1 ≤ e * d := hed ▸ Nat.mod_le _ _
  have hdvd : Nat.lcm (p - 1) (q - 1) ∣ e * d - 1 := by
    have hsub := Nat.dvd_sub_mod (n := Nat.lcm (p - 1) (q - 1)) (e * d)
    rwa [hed] at hsub
  have hmodp := pow_succ_modEq_of_prime hp ((Nat.dvd_lcm_left _ _).trans hdvd) x
  have hmodq := pow_succ_modEq_of_prime hq ((Nat.dvd_lcm_right _ _).trans hdvd) x
  have hpq : Nat.Coprime p q := (Nat.coprime_primes hp hq).mpr hne
  rw [← Nat.pow_mod, ← pow_mul, ← Nat.sub_add_cancel hpos, hn]
  exact (Nat.modEq_and_modEq_iff_modEq_mul hpq).mp ⟨hmodp, hmodq⟩

end Sys2Proof.Machine
end

section
/-! Proofs of the family 41_modexp_arith.md about the commands MODEXP_PUB, MODEXP_PRV, MONTMUL and BARRETT (R172 to R178)
and the RSA round trip (R176). -/

namespace Sys2Proof.Machine

/-- Settles O28: MODEXP_PUB only writes its output, which is x^E mod N. -/
theorem modexpPubStoresPowerE : Obligations.ModexpPubStoresPowerE := by
  refine endsBy_of_check check_modexpPub fun s hc => ?_
  rw [← modexpOut_eq]
  exact onlyOutput_of_pass (by decide) hc

/-- Settles O29: MODEXP_PRV only writes its output, which is y^D mod N. -/
theorem modexpPrvStoresPowerD : Obligations.ModexpPrvStoresPowerD := by
  refine endsBy_of_check check_modexpPrv fun s hc => ?_
  rw [← modexpOut_eq]
  exact onlyOutput_of_pass (by decide) hc

/-- MONTMUL's output is the Montgomery product of the blocks at LSRC and LSRC + NB, as NB bytes (R177). -/
theorem montmulOut_eq (s : State) :
    montmulOut s =
      i2be (montProduct s.keyN.toNat s.nb.toNat (be (readBytes s s.lsrc.toNat s.nb.toNat))
        (be (readBytes s (s.lsrc.toNat + s.nb.toNat) s.nb.toNat))) s.nb.toNat := by
  have ha : slice (readBytes s s.lsrc.toNat (2 * s.nb.toNat)) 0 s.nb.toNat = readBytes s s.lsrc.toNat s.nb.toNat := by
    simpa using slice_readBytes s s.lsrc.toNat (2 * s.nb.toNat) 0 s.nb.toNat (by omega)
  have hb : slice (readBytes s s.lsrc.toNat (2 * s.nb.toNat)) s.nb.toNat (2 * s.nb.toNat) =
      readBytes s (s.lsrc.toNat + s.nb.toNat) s.nb.toNat := by
    simpa [two_mul] using slice_readBytes s s.lsrc.toNat (2 * s.nb.toNat) s.nb.toNat s.nb.toNat (by omega)
  simp only [montmulOut, blockLen, ha, hb]

/-- Settles O30: MONTMUL only writes its output, and the checks make N odd and at least 3, so R has an inverse. -/
theorem montmulStoresMontgomeryProduct : Obligations.MontmulStoresMontgomeryProduct := by
  refine endsBy_of_check check_montmul fun s hc => ?_
  obtain ⟨-, -, -, hkey⟩ := check_none hc
  obtain ⟨-, hodd, hn⟩ := hkey rfl
  obtain ⟨hlt, hmul⟩ := montProduct_spec s.keyN.toNat s.nb.toNat (be (readBytes s s.lsrc.toNat s.nb.toNat))
    (be (readBytes s (s.lsrc.toNat + s.nb.toNat) s.nb.toNat)) hodd hn
  obtain ⟨hout, hrest⟩ := onlyOutput_of_pass (by decide) hc
  exact ⟨⟨_, hlt, hmul, montmulOut_eq s ▸ hout⟩, hrest⟩

/-- Settles O31: BARRETT only writes its output, which is x mod N. -/
theorem barrettStoresResidue : Obligations.BarrettStoresResidue :=
  endsBy_of_check check_barrett fun s hc => barrettOut_eq s ▸ onlyOutput_of_pass (by decide) hc

/-- A block that holds x^E mod N, raised to D, is the string of x, for a valid RSA key and x below N (R176). -/
theorem RsaKey.i2be_pow_pow {p q : Nat} {s : State} (h : RsaKey p q s) (hn : s.keyN.toNat < 256 ^ s.nb.toNat)
    {b : List Byte} (hl : b.length = s.nb.toNat) (hb : be b < s.keyN.toNat) :
    i2be (be (i2be (be b ^ s.keyE.toNat % s.keyN.toNat) s.nb.toNat) ^ s.keyD.toNat % s.keyN.toNat) s.nb.toNat = b := by
  have hlt : be b ^ s.keyE.toNat % s.keyN.toNat < s.keyN.toNat := Nat.mod_lt _ (by omega)
  rw [be_i2be _ _ (hlt.trans hn), h.pow_pow_mod, Nat.mod_eq_of_lt hb, ← hl, i2be_be]

/-- Settles O52: MODEXP_PRV reads the string MODEXP_PUB stored, under the same key, and stores the block itself. -/
theorem rsaRoundTripThroughCommands : Obligations.RsaRoundTripThroughCommands := by
  intro p q s t u dst hkey hn hx hpub ht hprv hu
  obtain ⟨hc, rfl⟩ := exec_of_errcode_zero hpub ht
  obtain ⟨hmid, -⟩ := output_of_pass hc
  obtain ⟨hend, -⟩ := output_of_errcode_zero hprv hu
  have hblock : readBytes s s.lsrc.toNat s.nb.toNat =
      i2be (be (modexpOut s.keyE.toNat s) ^ s.keyD.toNat % s.keyN.toNat) s.nb.toNat := by
    rw [modexpOut_eq, hkey.i2be_pow_pow hn (readBytes_length ..) hx]
  rw [outputOf, modexpOut_length, modexpOut_eq] at hend
  rw [outputOf, modexpOut_length] at hmid
  rw [hblock, ← hmid]
  exact hend

end Sys2Proof.Machine
end

section
/-! Proofs of the family 41_modexp_arith.md about the reference datapath (R181 to R187): the Barrett reducer, the
Montgomery multiplier and the exponentiation built on them compute the exact results. -/

namespace Sys2Proof.Machine

/-! ### The Barrett reducer -/

/-- With p * P in place of 2^(2β) and p ≤ n, the estimate q of the quotient x / n is never too large and at most 2 too
small (R186). -/
theorem barrett_quotient_bounds {n p P x : Nat} (hp : 0 < p) (hP : 0 < P) (hpn : p ≤ n) (hx : x < p * P) :
    x / p * (p * P / n) / P * n ≤ x ∧ x < (x / p * (p * P / n) / P + 3) * n := by
  have hn : 0 < n := by omega
  have haP : x / p < P := Nat.div_lt_of_lt_mul hx
  have hmP : p * P / n ≤ P := Nat.div_le_of_le_mul (Nat.mul_le_mul_right P hpn)
  have hale : x / p * p ≤ x := Nat.div_mul_le_self x p
  have halt : x < (x / p + 1) * p := (Nat.div_lt_iff_lt_mul hp).mp (Nat.lt_succ_self _)
  have hmle : p * P / n * n ≤ p * P := Nat.div_mul_le_self _ n
  have hmlt : p * P < (p * P / n + 1) * n := (Nat.div_lt_iff_lt_mul hn).mp (Nat.lt_succ_self _)
  generalize x / p = a at *
  generalize p * P / n = m at *
  have hqle : a * m / P * P ≤ a * m := Nat.div_mul_le_self _ P
  have hqlt : a * m < (a * m / P + 1) * P := (Nat.div_lt_iff_lt_mul hP).mp (Nat.lt_succ_self _)
  generalize a * m / P = q at *
  constructor
  · refine Nat.le_of_mul_le_mul_right ?_ (Nat.mul_pos hp hP)
    calc q * n * (p * P) = q * P * (n * p) := by ring
      _ ≤ a * m * (n * p) := Nat.mul_le_mul_right _ hqle
      _ = a * p * (m * n) := by ring
      _ ≤ x * (p * P) := Nat.mul_le_mul hale hmle
  · have hprod : (a + 1) * (m + 1) ≤ (q + 3) * P := by
      calc (a + 1) * (m + 1) = a * m + 1 + a + m := by ring
        _ ≤ (q + 1) * P + P + P := by omega
        _ = (q + 3) * P := by ring
    refine Nat.lt_of_mul_lt_mul_right (a := P) ?_
    calc x * P < (a + 1) * p * P := Nat.mul_lt_mul_of_pos_right halt hP
      _ = (a + 1) * (p * P) := by ring
      _ ≤ (a + 1) * ((m + 1) * n) := Nat.mul_le_mul_left _ hmlt.le
      _ = (a + 1) * (m + 1) * n := by ring
      _ ≤ (q + 3) * P * n := Nat.mul_le_mul_right _ hprod
      _ = (q + 3) * n * P := by ring

/-- A conditional subtraction keeps the value modulo N (R183, R187). -/
theorem condSub_mod (n r : Nat) : (if n ≤ r then r - n else r) % n = r % n := by
  split
  · exact (Nat.mod_eq_sub_mod (by assumption)).symm
  · rfl

/-- One conditional subtraction reduces any value below 2*N (R183). -/
theorem condSub_eq {n r : Nat} (h : r < 2 * n) : (if n ≤ r then r - n else r) = r % n := by
  rw [← condSub_mod, Nat.mod_eq_of_lt (by split <;> omega)]

/-- Two conditional subtractions reduce any value below 3*N (R187). -/
theorem subAtMostTwice_eq {n r : Nat} (h : r < 3 * n) : subAtMostTwice n r = r % n := by
  dsimp only [subAtMostTwice]
  rw [condSub_eq (by split <;> omega), condSub_mod]

/-- β is the bit length of N (R181). -/
theorem refBeta_bounds {n : Nat} (h : 0 < n) : 2 ^ (refBeta n - 1) ≤ n ∧ n < 2 ^ refBeta n :=
  ⟨Nat.log2_self_le (by omega), Nat.lt_log2_self⟩

/-- One Barrett step is exact for x < 2^(2β) (R186). -/
theorem barrettStep_eq {n x : Nat} (hn : 0 < n) (hx : x < 2 ^ (2 * refBeta n)) : barrettStep n x = x % n := by
  have hsplit : 2 ^ (2 * refBeta n) = 2 ^ (refBeta n - 1) * 2 ^ (refBeta n + 1) := by
    rw [← pow_add]
    congr 1
    simp only [refBeta]
    omega
  obtain ⟨hle, hlt⟩ := barrett_quotient_bounds (by positivity) (by positivity) (refBeta_bounds hn).1 (hsplit ▸ hx)
  simp only [barrettStep, refMu, hsplit]
  generalize x / 2 ^ (refBeta n - 1) * (2 ^ (refBeta n - 1) * 2 ^ (refBeta n + 1) / n) / 2 ^ (refBeta n + 1) = q at *
  rw [subAtMostTwice_eq (by rw [Nat.add_mul] at hlt; omega), mul_comm q n]
  exact Nat.sub_mul_mod (mul_comm q n ▸ hle)

/-- The splits keep x modulo N and lose a bit each, so the step at the end is exact (R187). -/
theorem barrettSplit_eq {n : Nat} (hn : 0 < n) :
    ∀ depth x, x < 2 ^ (2 * refBeta n + depth) → barrettSplit n depth x = x % n := by
  intro depth
  induction depth with
  | zero => exact fun x hx => barrettStep_eq hn hx
  | succ depth ih =>
    intro x hx
    unfold barrettSplit
    split
    · have hhigh : x / 2 ^ refBeta n < 2 ^ (2 * refBeta n + depth) := by
        refine Nat.div_lt_of_lt_mul (hx.trans_le ?_)
        rw [← pow_add]
        exact Nat.pow_le_pow_right (by omega) (by simp only [refBeta]; omega)
      have hjoin : x / 2 ^ refBeta n % n * 2 ^ refBeta n + x % 2 ^ refBeta n < 2 ^ (2 * refBeta n + depth) := by
        calc x / 2 ^ refBeta n % n * 2 ^ refBeta n + x % 2 ^ refBeta n
            < (x / 2 ^ refBeta n % n + 1) * 2 ^ refBeta n := by
              rw [Nat.succ_mul]
              exact Nat.add_lt_add_left (Nat.mod_lt _ (by positivity)) _
          _ ≤ 2 ^ refBeta n * 2 ^ refBeta n :=
              Nat.mul_le_mul_right _ ((Nat.mod_lt _ hn).trans (refBeta_bounds hn).2)
          _ ≤ 2 ^ (2 * refBeta n + depth) := by
              rw [← pow_add]
              exact Nat.pow_le_pow_right (by omega) (by omega)
      rw [ih _ hhigh, ih _ hjoin, Nat.add_mod, Nat.mod_mul_mod, ← Nat.add_mod, Nat.div_add_mod']
    · exact barrettStep_eq hn (by omega)

theorem barrettRef_eq {n : Nat} (hn : 0 < n) (x : Nat) : barrettRef n x = x % n :=
  barrettSplit_eq hn _ _ (Nat.lt_log2_self.trans_le (Nat.pow_le_pow_right (by omega) (by omega)))

/-- Settles O47: the depth bitlen(x) is enough for every split. -/
theorem referenceBarrettIsExact : Obligations.ReferenceBarrettIsExact :=
  fun _ x hn => barrettRef_eq (by omega) x

/-! ### The Montgomery multiplier -/

/-- The Montgomery product is the only value below N that times R is a * b modulo N (R177). -/
theorem montProduct_unique {n nb a b r : Nat} (hodd : n % 2 = 1) (hn : 3 ≤ n) (hr : r < n)
    (h : r * montRadix nb ≡ a * b [MOD n]) : montProduct n nb a b = r := by
  obtain ⟨hlt, hmul⟩ := montProduct_spec n nb a b hodd hn
  have hcancel : montProduct n nb a b ≡ r [MOD n] :=
    Nat.ModEq.cancel_right_of_coprime (montRadix_coprime n nb hodd).symm (hmul.trans h.symm)
  exact hcancel.eq_of_lt_of_lt hlt hr

theorem montProduct_mod (n nb a b : Nat) : montProduct n nb (a % n) (b % n) = montProduct n nb a b := by
  rw [montProduct, montProduct, ← Nat.mod_mul_mod, ← Nat.mul_mod, Nat.mod_mul_mod]

/-- N' is the negated inverse of N modulo 256 (R181). -/
theorem refNPrime_spec {n : Nat} (hodd : n % 2 = 1) : n * refNPrime n + 1 ≡ 0 [MOD 256] := by
  have hcop : Nat.Coprime n 256 := (montRadix_coprime n 1 hodd).symm
  obtain ⟨hlt, hinv⟩ := modInv_spec n 256 (by norm_num) hcop
  have hsum : refNPrime n + modInv n 256 ≡ 0 [MOD 256] := by
    simp only [refNPrime, Nat.ModEq]
    omega
  calc n * refNPrime n + 1 ≡ n * refNPrime n + n * modInv n 256 [MOD 256] := Nat.ModEq.add_left _ hinv.symm
    _ = n * (refNPrime n + modInv n 256) := (Nat.mul_add ..).symm
    _ ≡ n * 0 [MOD 256] := hsum.mul_left n

/-- One digit of the loop: u makes the division by 256 exact (R183). -/
theorem monDigit_mul {n : Nat} (hodd : n % 2 = 1) (b t ai : Nat) :
    ∃ u < 256, monDigit n b t ai * 256 = t + ai * b + u * n := by
  refine ⟨(t + ai * b) % 256 * refNPrime n % 256, Nat.mod_lt _ (by norm_num), ?_⟩
  refine Nat.div_mul_cancel (Nat.modEq_zero_iff_dvd.mp ?_)
  generalize t + ai * b = t1
  have hu : t1 % 256 * refNPrime n % 256 * n ≡ t1 * refNPrime n * n [MOD 256] :=
    ((Nat.mod_modEq _ _).trans ((Nat.mod_modEq _ _).mul_right _)).mul_right n
  calc t1 + t1 % 256 * refNPrime n % 256 * n ≡ t1 + t1 * refNPrime n * n [MOD 256] := hu.add_left t1
    _ = t1 * (n * refNPrime n + 1) := by ring
    _ ≡ t1 * 0 [MOD 256] := (refNPrime_spec hodd).mul_left t1

/-- The loop keeps t below 2*N, and after all the digits of a it has t * R ≡ a * b (R183). -/
theorem monLoop_spec {n b : Nat} (hodd : n % 2 = 1) (hb : b < n) :
    ∀ digits a t, a < 256 ^ digits → t < 2 * n →
      monLoop n b digits a t < 2 * n ∧ monLoop n b digits a t * 256 ^ digits ≡ t + a * b [MOD n] := by
  intro digits
  induction digits with
  | zero =>
    intro a t ha ht
    obtain rfl : a = 0 := by simpa using ha
    exact ⟨ht, by simp [monLoop, Nat.ModEq.refl]⟩
  | succ digits ih =>
    intro a t ha ht
    obtain ⟨u, hu, hdigit⟩ := monDigit_mul hodd b t (a % 256)
    have hbound : monDigit n b t (a % 256) < 2 * n := by
      have hab : a % 256 * b ≤ 255 * n := Nat.mul_le_mul (by omega) hb.le
      have hun : u * n ≤ 255 * n := Nat.mul_le_mul_right n (by omega)
      omega
    obtain ⟨hlt, hmod⟩ := ih (a / 256) _ (by rw [pow_succ] at ha; omega) hbound
    refine ⟨hlt, ?_⟩
    rw [monLoop, pow_succ, ← mul_assoc]
    calc monLoop n b digits (a / 256) (monDigit n b t (a % 256)) * 256 ^ digits * 256
        ≡ (monDigit n b t (a % 256) + a / 256 * b) * 256 [MOD n] := hmod.mul_right 256
      _ = t + (a / 256 * 256 + a % 256) * b + n * u := by rw [Nat.add_mul, hdigit]; ring
      _ ≡ t + (a / 256 * 256 + a % 256) * b [MOD n] := by simp [Nat.ModEq]
      _ = t + a * b := by rw [Nat.div_add_mod']

/-- The reference multiplier computes the Montgomery product of reduced operands (R183). -/
theorem monProRef_eq {n nb a b : Nat} (hodd : n % 2 = 1) (hn : 3 ≤ n) (hnb : n < 256 ^ nb) (ha : a < n) (hb : b < n) :
    monProRef n nb a b = montProduct n nb a b := by
  obtain ⟨hlt, hmod⟩ := monLoop_spec hodd hb nb a 0 (ha.trans hnb) (by omega)
  have hred : monProRef n nb a b = monLoop n b nb a 0 % n := condSub_eq hlt
  rw [hred]
  refine (montProduct_unique hodd hn (Nat.mod_lt _ (by omega)) ?_).symm
  rw [montRadix_eq]
  calc monLoop n b nb a 0 % n * 256 ^ nb ≡ monLoop n b nb a 0 * 256 ^ nb [MOD n] := (Nat.mod_modEq _ _).mul_right _
    _ ≡ 0 + a * b [MOD n] := hmod
    _ = a * b := Nat.zero_add _

/-- Settles O48: the multiplier is exact for reduced operands, and the reducer before it keeps the product. -/
theorem referenceMontgomeryIsExact : Obligations.ReferenceMontgomeryIsExact := by
  intro n nb a b hodd hn hnb
  have hpos : 0 < n := by omega
  refine ⟨monProRef_eq hodd hn hnb, ?_⟩
  rw [montmulRef, barrettRef_eq hpos, barrettRef_eq hpos,
    monProRef_eq hodd hn hnb (Nat.mod_lt _ hpos) (Nat.mod_lt _ hpos), montProduct_mod]

/-! ### The exponentiation -/

/-- The Montgomery form of v: v * R mod N (R184, R185). -/
def montForm (n nb v : Nat) : Nat := v * montRadix nb % n

section
variable {n : Nat} (nb : Nat) (hodd : n % 2 = 1) (hn : 3 ≤ n)
include hn

theorem montForm_lt (v : Nat) : montForm n nb v < n := Nat.mod_lt _ (by omega)

/-- Rm is the Montgomery form of 1 (R184). -/
theorem refRm_eq : refRm n nb = montForm n nb 1 := by
  rw [refRm, barrettRef_eq (by omega), montForm, one_mul, montRadix_eq]

/-- R2 is the Montgomery form of R (R184). -/
theorem refR2_eq : refR2 n nb = montForm n nb (montRadix nb) := by
  rw [refR2, barrettRef_eq (by omega), refRm_eq nb hn, montForm, montForm, one_mul, ← Nat.mul_mod]

include hodd

/-- The Montgomery product with a Montgomery form is the product modulo N (R185). -/
theorem montProduct_montForm (u v : Nat) : montProduct n nb u (montForm n nb v) = u * v % n := by
  refine montProduct_unique hodd hn (Nat.mod_lt _ (by omega)) ?_
  calc u * v % n * montRadix nb ≡ u * v * montRadix nb [MOD n] := (Nat.mod_modEq _ _).mul_right _
    _ = u * (v * montRadix nb) := mul_assoc u v _
    _ ≡ u * montForm n nb v [MOD n] := (Nat.mod_modEq _ _).symm.mul_left u

variable {nb} (hnb : n < 256 ^ nb)
include hnb

/-- The multiplier maps Montgomery forms to the Montgomery form of the product (R185). -/
theorem monProRef_montForm (u v : Nat) :
    monProRef n nb (montForm n nb u) (montForm n nb v) = montForm n nb (u * v) := by
  rw [monProRef_eq hodd hn hnb (montForm_lt nb hn u) (montForm_lt nb hn v), montProduct_montForm nb hodd hn, montForm,
    montForm, Nat.mod_mul_mod, mul_right_comm]

/-- Multiplying by R2 takes a reduced value to its Montgomery form (R185). -/
theorem monProRef_refR2 (x : Nat) : monProRef n nb (x % n) (refR2 n nb) = montForm n nb x := by
  rw [refR2_eq nb hn, monProRef_eq hodd hn hnb (Nat.mod_lt _ (by omega)) (montForm_lt nb hn _),
    montProduct_montForm nb hodd hn, Nat.mod_mul_mod, montForm]

/-- Multiplying by 1 takes a Montgomery form back to the value modulo N (R185). -/
theorem monProRef_one (v : Nat) : monProRef n nb (montForm n nb v) 1 = v % n := by
  have hcomm : montProduct n nb (montForm n nb v) 1 = montProduct n nb 1 (montForm n nb v) := by
    simp only [montProduct, mul_comm 1]
  rw [monProRef_eq hodd hn hnb (montForm_lt nb hn v) (by omega), hcomm, montProduct_montForm nb hodd hn, one_mul]

/-- Square and multiply: the accumulator is the Montgomery form of x^k for the bits read so far (R185). -/
theorem modExpLoop_eq (x : Nat) :
    ∀ bits k, k < 2 ^ bits → modExpLoop n nb (montForm n nb x) bits k = montForm n nb (x ^ k) := by
  intro bits
  induction bits with
  | zero =>
    intro k hk
    obtain rfl : k = 0 := by simpa using hk
    rw [modExpLoop, refRm_eq nb hn, pow_zero]
  | succ bits ih =>
    intro k hk
    dsimp only [modExpLoop]
    rw [ih (k / 2) (by rw [pow_succ] at hk; omega), monProRef_montForm hodd hn hnb, ← pow_add]
    split
    · rw [monProRef_montForm hodd hn hnb, ← pow_succ, show k / 2 + k / 2 + 1 = k by omega]
    · rw [show k / 2 + k / 2 = k by omega]

end

theorem lt_two_pow_bitLen (k : Nat) : k < 2 ^ bitLen k := by
  unfold bitLen
  split
  · simp [*]
  · exact Nat.lt_log2_self

/-- Settles O49: into Montgomery form, square and multiply there, and back. -/
theorem referenceExponentiationIsExact : Obligations.ReferenceExponentiationIsExact := by
  intro n nb x k hodd hn hnb
  dsimp only [modExpRef]
  rw [barrettRef_eq (by omega), monProRef_refR2 hodd hn hnb, modExpLoop_eq hodd hn hnb x _ k (lt_two_pow_bitLen k),
    monProRef_one hodd hn hnb]

end Sys2Proof.Machine
end

section
/-! Facts the proofs of the family 42_ecb.md share: frames (R201 to R203), the pieces of a string, and what each ECB command
writes in the terms of the pieces of its input (R204, R206). -/

namespace Sys2Proof.Machine

/-! ### Frames -/

/-- With PAD_LEN = 2 a frame is the pad field, the filler and the chunk (R201). -/
theorem frame_eq (nb : Nat) (c : List Byte) :
    frame nb c = i2be (nb - 2 - c.length) 2 ++ zeros (nb - 2 - c.length) ++ c := rfl

theorem frame_length {nb : Nat} {c : List Byte} (hnb : 2 ≤ nb) (hc : c.length ≤ nb - 2) : (frame nb c).length = nb := by
  simp only [frame_eq, List.length_append, i2be_length, zeros_length]
  omega

/-- The value of a pad field: any block size fits in two bytes (R201). -/
theorem be_padField {nb : Nat} (h : nb ≤ 512) (l : Nat) : be (i2be (nb - 2 - l) 2) = nb - 2 - l :=
  be_i2be _ _ (by omega)

theorem be_frame {nb : Nat} {c : List Byte} (hnb : nb ≤ 512) (hc : c.length ≤ nb - 2) :
    be (frame nb c) = (nb - 2 - c.length) * 256 ^ (nb - 2) + be c := by
  rw [frame_eq, be_append, be_append, be_padField hnb, be_zeros, add_zero, zeros_length, mul_assoc, ← pow_add,
    Nat.sub_add_cancel hc]

/-- The bound of R202: at most K * 256^K from the pad field, and the chunk's value is below 256^K. -/
theorem be_frame_lt {nb : Nat} {c : List Byte} (hlo : 3 ≤ nb) (hhi : nb ≤ 512) (hc : c.length ≤ nb - 2) :
    be (frame nb c) < (nb - 1) * 256 ^ (nb - 2) := by
  rw [be_frame hhi hc]
  calc (nb - 2 - c.length) * 256 ^ (nb - 2) + be c
      < (nb - 2 - c.length) * 256 ^ (nb - 2) + 256 ^ c.length := Nat.add_lt_add_left (be_lt c) _
    _ ≤ (nb - 2 - c.length) * 256 ^ (nb - 2) + 256 ^ (nb - 2) :=
        Nat.add_le_add_left (Nat.pow_le_pow_right (by decide) hc) _
    _ = (nb - 2 - c.length + 1) * 256 ^ (nb - 2) := (Nat.succ_mul _ _).symm
    _ ≤ (nb - 1) * 256 ^ (nb - 2) := Nat.mul_le_mul_right _ (by omega)

/-- Unframing reads the pad field and drops it with the filler it counts; a field above K leaves nothing (R203). -/
theorem unframe_eq {nb : Nat} {b : List Byte} (hb : b.length = nb) :
    unframe nb b =
      if be (b.take 2) ≤ nb - 2 then (b.drop (2 + be (b.take 2)), false) else ([], true) := by
  have htail : slice b (2 + be (b.take 2)) nb = b.drop (2 + be (b.take 2)) := by
    rw [slice, List.take_of_length_le (by simp [hb])]
  rw [← htail]
  rfl

theorem unframe_fst {nb : Nat} {b : List Byte} (hb : b.length = nb) :
    (unframe nb b).1 = if be (b.take 2) ≤ nb - 2 then b.drop (2 + be (b.take 2)) else [] := by
  rw [unframe_eq hb]
  split <;> rfl

theorem unframe_snd {nb : Nat} {b : List Byte} (hb : b.length = nb) :
    (unframe nb b).2 = true ↔ nb - 2 < be (b.take 2) := by
  rw [unframe_eq hb, ← Nat.not_le]
  split <;> simp [*]

theorem unframe_frame {nb : Nat} {c : List Byte} (hlo : 2 ≤ nb) (hhi : nb ≤ 512) (hc : c.length ≤ nb - 2) :
    unframe nb (frame nb c) = (c, false) := by
  have hfield : be ((frame nb c).take 2) = nb - 2 - c.length := by
    rw [frame_eq, List.append_assoc, List.take_left' (i2be_length ..), be_padField hhi]
  have hchunk : (frame nb c).drop (2 + (nb - 2 - c.length)) = c := by
    rw [frame_eq, List.drop_left' (by simp)]
  rw [unframe_eq (frame_length hlo hc), hfield, if_pos (Nat.sub_le ..), hchunk]

/-! ### The pieces of a string -/

/-- The consecutive pieces of length k of a string, the last perhaps shorter (R204). -/
def pieces (k : Nat) (x : List Byte) : List (List Byte) :=
  (List.range (ceilDiv x.length k)).map fun j => slice x (j * k) ((j + 1) * k)

theorem mem_pieces {k : Nat} {x c : List Byte} :
    c ∈ pieces k x ↔ ∃ j < ceilDiv x.length k, slice x (j * k) ((j + 1) * k) = c := by
  simp [pieces]

theorem length_le_of_mem_pieces {k : Nat} {x c : List Byte} (h : c ∈ pieces k x) : c.length ≤ k := by
  obtain ⟨j, -, rfl⟩ := mem_pieces.mp h
  rw [slice_length, Nat.succ_mul]
  omega

/-- The pieces put together are the string. -/
theorem pieces_flatten {k : Nat} (hk : 0 < k) (x : List Byte) : (pieces k x).flatten = x := by
  rw [pieces, ← List.flatMap_def]
  exact concatBlocks_slice x k hk

/-- A string that starts with whole pieces has those pieces first, then the pieces of the rest. -/
theorem pieces_append {k : Nat} (hk : 0 < k) {x : List Byte} (hx : x.length % k = 0) (y : List Byte) :
    pieces k (x ++ y) = pieces k x ++ pieces k y := by
  obtain ⟨m, hm⟩ := Nat.dvd_of_mod_eq_zero hx
  rw [mul_comm] at hm
  simp only [pieces, List.length_append, hm, ceilDiv_add m _ _ hk, ceilDiv_mul m _ hk, List.range_add, List.map_append,
    List.map_map]
  congr 1
  · refine List.map_congr_left fun j hj => ?_
    have hj' : (j + 1) * k ≤ m * k := Nat.mul_le_mul_right k (List.mem_range.mp hj)
    have hle : j * k ≤ x.length := by rw [Nat.succ_mul] at hj'; omega
    rw [slice, List.drop_append_of_le_length hle, List.take_append_of_le_length (by simp; omega), slice]
  · refine List.map_congr_left fun j _ => ?_
    have hdrop : (x ++ y).drop ((m + j) * k) = y.drop (j * k) := by
      rw [add_mul, ← hm, List.drop_length_add_append]
    simp only [Function.comp_apply, slice, hdrop, Nat.succ_mul]
    congr 1
    omega

/-- A string of exactly one piece. -/
theorem pieces_of_length_eq {k : Nat} (hk : 0 < k) {b : List Byte} (hb : b.length = k) : pieces k b = [b] := by
  have hone : ceilDiv b.length k = 1 := by simpa [hb] using ceilDiv_mul 1 k hk
  simp [pieces, hone, slice, List.take_of_length_le hb.le]

/-- Blocks of length k put together have those blocks as their pieces. -/
theorem pieces_flatten_of_length {k : Nat} (hk : 0 < k) {bs : List (List Byte)} (h : ∀ b ∈ bs, b.length = k) :
    pieces k bs.flatten = bs := by
  induction bs with
  | nil => simp [pieces]
  | cons b bs ih =>
    obtain ⟨hb, hbs⟩ := List.forall_mem_cons.mp h
    rw [List.flatten_cons, pieces_append hk (by rw [hb, Nat.mod_self]), pieces_of_length_eq hk hb, ih hbs]
    rfl

/-! ### Outputs one behind the other -/

theorem toNat_add_of_inDmem {a k : Word} (h : InDmem a.toNat k.toNat) : (a + k).toNat = a.toNat + k.toNat := by
  have := a.isLt
  rw [BitVec.toNat_add, Nat.mod_eq_of_lt (by omega)]

theorem OutputIs.outlen_toNat {out : List Byte} {s t : State} (h : OutputIs out s t) : t.outlen.toNat = out.length := by
  obtain ⟨-, hlen, -⟩ := h
  exact hlen

/-- Every byte of DMEM after a command with an output. -/
theorem OutputIs.dmemByte_eq {out : List Byte} {s t : State} (h : OutputIs out s t) (x : Nat) :
    dmemByte t x =
      if hx : s.ldst.toNat ≤ x ∧ x < s.ldst.toNat + out.length then out[x - s.ldst.toNat]'(by omega)
      else dmemByte s x := by
  obtain ⟨hread, -, hframe⟩ := h
  split
  · rename_i hx
    have hget := readBytes_getElem t s.ldst.toNat out.length (x - s.ldst.toNat) (by simp; omega)
    rw [Nat.add_sub_cancel' hx.1] at hget
    simp only [← hget, hread]
  · rename_i hx
    exact hframe x hx

/-- Two outputs, the second stored right behind the first, leave the DMEM that storing them as one output leaves. -/
theorem dmemByte_eq_of_adjacent_outputs {a b : List Byte} {s t w u v : State} (ht : OutputIs a s t)
    (hw : ∀ x, dmemByte w x = dmemByte t x) (hldst : w.ldst.toNat = s.ldst.toNat + a.length) (hu : OutputIs b w u)
    (hv : OutputIs (a ++ b) s v) (x : Nat) : dmemByte u x = dmemByte v x := by
  rw [hu.dmemByte_eq, hv.dmemByte_eq, hw, ht.dmemByte_eq]
  simp only [hldst, List.length_append]
  by_cases hb : s.ldst.toNat + a.length ≤ x ∧ x < s.ldst.toNat + a.length + b.length
  · rw [dif_pos hb, dif_pos (by omega), List.getElem_append_right (by omega)]
    simp only [Nat.sub_sub]
  · rw [dif_neg hb]
    by_cases ha : s.ldst.toNat ≤ x ∧ x < s.ldst.toNat + a.length
    · rw [dif_pos ha, dif_pos (by omega), List.getElem_append_left]
    · rw [dif_neg ha, dif_neg (by omega)]

/-- An output that a first part of the input gave leaves the rest of the input as it was: the checks of the whole command
exclude any overlap but the in-place form, where the output lies on the part of the input that gave it (R96). -/
theorem readBytes_rest_of_input {i : Instr} {s t : State} {la lb l : Nat} (hc : check i s = none)
    (hin : inLen i s = la + lb) (hmax : l ≤ outMax i s) (hplace : i ≠ .ecbEnc → l ≤ la)
    (ht : SameDmemOutside s.ldst.toNat l s t) :
    readBytes t (s.lsrc.toNat + la) lb = readBytes s (s.lsrc.toNat + la) lb := by
  obtain ⟨-, -, hover, -⟩ := check_none hc
  refine readBytes_eq_of fun n hn => ht _ fun hx => ?_
  obtain ⟨hi, hsame⟩ := hover ⟨by omega, by omega, by omega, by omega⟩
  have := hplace hi
  rw [hsame] at hx
  omega

/-! ### The commands over the pieces of their input -/

/-- One block of ECB_ENC: the frame of the chunk raised to E (R204). -/
def encryptChunk (s : State) (c : List Byte) : List Byte :=
  i2be (be (frame s.nb.toNat c) ^ s.keyE.toNat % s.keyN.toNat) s.nb.toNat

/-- One buffer of ECB_DEC: the block raised to D (R206). -/
def decryptBlock (s : State) (b : List Byte) : List Byte :=
  i2be (be b ^ s.keyD.toNat % s.keyN.toNat) s.nb.toNat

/-- What ECB_DEC makes of one block: the piece of plaintext, and whether its pad field is malformed (R206, R207). -/
def unframeBlock (s : State) (b : List Byte) : List Byte × Bool := unframe s.nb.toNat (decryptBlock s b)

@[simp] theorem encryptChunk_length (s : State) (c : List Byte) : (encryptChunk s c).length = s.nb.toNat := i2be_length ..

@[simp] theorem decryptBlock_length (s : State) (b : List Byte) : (decryptBlock s b).length = s.nb.toNat := i2be_length ..

theorem ecbEncBlock_eq (s : State) (j : Nat) : ecbEncBlock s j = encryptChunk s (ecbChunk s j) := by
  rw [ecbEncBlock, modExp_eq]
  rfl

theorem ecbDecBuffer_eq (s : State) (j : Nat) :
    ecbDecBuffer s j =
      decryptBlock s (slice (readBytes s s.lsrc.toNat s.llen.toNat) (j * s.nb.toNat) ((j + 1) * s.nb.toNat)) := by
  rw [ecbDecBuffer, modExp_eq]
  rfl

/-- ECB_ENC encrypts the chunks of its input in order (R204). -/
theorem ecbEncOut_eq (s : State) :
    ecbEncOut s = (pieces (s.nb.toNat - 2) (readBytes s s.lsrc.toNat s.llen.toNat)).flatMap (encryptChunk s) := by
  rw [ecbEncOut, concatBlocks, funext (ecbEncBlock_eq s), pieces, List.flatMap_map, readBytes_length]
  rfl

/-- What the passed checks of ECB_ENC and ECB_DEC say of NB: K is at least 1 (R200, BLOCK_SIZE). -/
theorem three_le_nb_of_pass {i : Instr} {s : State} (hi : i = .ecbEnc ∨ i = .ecbDec) (h : check i s = none) :
    3 ≤ s.nb.toNat := by
  rw [check_eq] at h
  simp only [check_step] at h
  obtain ⟨-, -, hnb, -⟩ := h
  exact Nat.le_of_not_lt fun hlt => hnb ⟨hi, hlt⟩

/-- The passed checks of ECB_DEC leave whole blocks only (R206, LEN_INVALID). -/
theorem llen_mod_nb_of_pass {s : State} (h : check .ecbDec s = none) : s.llen.toNat % s.nb.toNat = 0 := by
  rw [check_eq] at h
  simp only [check_step] at h
  obtain ⟨-, -, -, -, hlen, -⟩ := h
  exact of_not_not fun hne => hlen ⟨trivial, hne⟩

/-- ECB_DEC has as many blocks as its input has pieces of NB bytes (R206). -/
theorem ecbDecBlocks_eq {s : State} (h : check .ecbDec s = none) :
    ecbDecBlocks s = ceilDiv s.llen.toNat s.nb.toNat := by
  have hnb : 0 < s.nb.toNat := Nat.zero_lt_of_lt (three_le_nb_of_pass (.inr rfl) h)
  obtain ⟨m, hm⟩ := Nat.dvd_of_mod_eq_zero (llen_mod_nb_of_pass h)
  rw [ecbDecBlocks, blockLen, hm, Nat.mul_div_cancel_left _ hnb, mul_comm, ceilDiv_mul _ _ hnb]

/-- ECB_DEC decrypts and unframes the blocks of its input in order (R206). -/
theorem ecbDecOut_eq {s : State} (h : check .ecbDec s = none) :
    ecbDecOut s =
      (pieces s.nb.toNat (readBytes s s.lsrc.toNat s.llen.toNat)).flatMap fun b => (unframeBlock s b).1 := by
  simp only [ecbDecOut, concatBlocks, pieces, List.flatMap_map, readBytes_length, ecbDecBuffer_eq, ecbDecBlocks_eq h]
  rfl

/-- PADFMT says whether a block of the input has a malformed pad field (R207). -/
theorem ecbDecBad_eq {s : State} (h : check .ecbDec s = none) :
    ecbDecBad s = (pieces s.nb.toNat (readBytes s s.lsrc.toNat s.llen.toNat)).any fun b => (unframeBlock s b).2 := by
  simp only [ecbDecBad, pieces, List.any_map, readBytes_length, ecbDecBuffer_eq, ecbDecBlocks_eq h]
  rfl

theorem SameKeys.nb_eq {s t : State} (h : SameKeys s t) : t.nb = s.nb := by
  obtain ⟨-, -, -, hnb, -⟩ := h
  exact hnb

/-- What one block encrypts to depends on the keys only. -/
theorem encryptChunk_congr {s t : State} (h : SameKeys s t) : encryptChunk t = encryptChunk s := by
  obtain ⟨hn, he, -, hnb, -⟩ := h
  funext c
  rw [encryptChunk, encryptChunk, hn, he, hnb]

theorem unframeBlock_congr {s t : State} (h : SameKeys s t) : unframeBlock t = unframeBlock s := by
  obtain ⟨hn, -, hd, hnb, -⟩ := h
  funext b
  rw [unframeBlock, unframeBlock, decryptBlock, decryptBlock, hn, hd, hnb]

end Sys2Proof.Machine
end

section
/-! Proofs of the family 42_ecb.md: framing (R201 to R203), ECB_ENC and ECB_DEC (R204 to R207), their round trip (R212) and
their splitting (R213). -/

namespace Sys2Proof.Machine

/-! ### Framing -/

/-- Settles O45: both parts of the pad field's comparison, and the frame as the case of a field the chunk leaves. -/
theorem unframeUndoesFrame : Obligations.UnframeUndoesFrame := by
  intro nb hlo hhi
  refine ⟨fun c hc => ⟨frame_length (by omega) hc, unframe_frame (by omega) hhi hc⟩, fun b hb => ?_⟩
  rw [unframe_eq hb]
  exact ⟨fun h => if_pos h, fun h => if_neg (by omega)⟩

/-- Settles O46: the value is the pad field's part and the chunk's, and the bound carries over to a key that meets R316. -/
theorem frameValueAndBound : Obligations.FrameValueAndBound := by
  intro nb c hlo hhi hc
  refine ⟨be_frame hhi hc, be_frame_lt hlo hhi hc, fun s hs hfit => ?_⟩
  subst hs
  exact (be_frame_lt hlo hhi hc).trans_le hfit

/-! ### The two commands -/

/-- The chunk of R204, whose end is cut at LLEN. -/
theorem slice_min_length (x : List Byte) (i j : Nat) : slice x i (min j x.length) = slice x i j := by
  rw [slice, slice, List.take_eq_take_iff, List.length_drop]
  omega

/-- Settles O32: ECB_ENC only writes its output, block by block the power E of a chunk's frame. -/
theorem ecbEncStoresEncryptedFrames : Obligations.EcbEncStoresEncryptedFrames := by
  refine endsBy_of_check check_ecbEnc fun s hc => ?_
  obtain ⟨hout, hrest⟩ := onlyOutput_of_pass (by decide) hc
  have hblocks : ecbEncOut s = concatBlocks (ceilDiv s.llen.toNat (s.nb.toNat - 2)) fun j =>
      encryptChunk s (slice (readBytes s s.lsrc.toNat s.llen.toNat) (j * (s.nb.toNat - 2))
        (min ((j + 1) * (s.nb.toNat - 2)) s.llen.toNat)) := by
    refine concatBlocks_congr _ _ _ fun j _ => ?_
    have hmin := slice_min_length (readBytes s s.lsrc.toNat s.llen.toNat) (j * (s.nb.toNat - 2))
      ((j + 1) * (s.nb.toNat - 2))
    rw [readBytes_length] at hmin
    rw [ecbEncBlock_eq, hmin]
    rfl
  exact ⟨hblocks ▸ hout, hout.outlen_toNat.trans (ecbEncOut_length s), hrest⟩

/-- Settles O33: ECB_DEC writes its output and PADFMT only; each buffer is unframed by its pad field. -/
theorem ecbDecStoresUnframedPieces : Obligations.EcbDecStoresUnframedPieces := by
  refine endsBy_of_check check_ecbDec fun s hc => ?_
  have hout := output_of_pass hc
  have hblocks : ecbDecOut s = concatBlocks (s.llen.toNat / s.nb.toNat) fun j =>
      if be ((ecbDecBuffer s j).take 2) ≤ s.nb.toNat - 2 then
        (ecbDecBuffer s j).drop (2 + be ((ecbDecBuffer s j).take 2)) else [] :=
    concatBlocks_congr _ _ _ fun j _ => unframe_fst (ecbDecBuffer_length s j)
  have hbad : ecbDecBad s = true ↔
      ∃ j, j < s.llen.toNat / s.nb.toNat ∧ s.nb.toNat - 2 < be ((ecbDecBuffer s j).take 2) := by
    simp only [ecbDecBad, List.any_eq_true, List.mem_range, ← unframe_snd (ecbDecBuffer_length s _)]
    rfl
  simp only [ecbDecBuffer_eq] at hblocks hbad
  exact ⟨hblocks ▸ hout, hbad, effectOf_keys (i := .ecbDec) (by decide) s,
    effectOf_stream (i := .ecbDec) (by decide) s⟩

/-! ### The round trip -/

/-- With a valid RSA key, ECB_DEC of an encrypted chunk is the chunk, if its frame is below N (R212). -/
theorem RsaKey.unframeBlock_encryptChunk {p q : Nat} {s : State} (h : RsaKey p q s)
    (hn : s.keyN.toNat < 256 ^ s.nb.toNat) (hlo : 2 ≤ s.nb.toNat) (hhi : s.nb.toNat ≤ 512) {c : List Byte}
    (hc : c.length ≤ s.nb.toNat - 2) (hframe : be (frame s.nb.toNat c) < s.keyN.toNat) :
    unframeBlock s (encryptChunk s c) = (c, false) := by
  rw [unframeBlock, decryptBlock, encryptChunk, h.i2be_pow_pow hn (frame_length hlo hc) hframe,
    unframe_frame hlo hhi hc]

/-- ECB_DEC of a string that ECB_ENC gave, under the same keys, is the plaintext, with no malformed field: D undoes E on
each frame, and unframing leaves the chunks (R212). -/
theorem RsaKey.ecbDec_of_ecbEncOut {p q : Nat} {s v : State} (hkey : RsaKey p q s)
    (hn : s.keyN.toNat < 256 ^ s.nb.toNat) (hhi : s.nb.toNat ≤ 512)
    (hframes : ∀ j < ceilDiv s.llen.toNat (s.nb.toNat - 2), be (frame s.nb.toNat (ecbChunk s j)) < s.keyN.toNat)
    (hs : check .ecbEnc s = none) (hv : check .ecbDec v = none) (hsame : SameKeys s v)
    (hin : readBytes v v.lsrc.toNat v.llen.toNat = ecbEncOut s) :
    ecbDecOut v = readBytes s s.lsrc.toNat s.llen.toNat ∧ ecbDecBad v = false := by
  have hlo : 3 ≤ s.nb.toNat := three_le_nb_of_pass (.inl rfl) hs
  have hnb : v.nb = s.nb := hsame.nb_eq
  have hblocks : pieces v.nb.toNat (readBytes v v.lsrc.toNat v.llen.toNat) =
      (pieces (s.nb.toNat - 2) (readBytes s s.lsrc.toNat s.llen.toNat)).map (encryptChunk s) := by
    rw [hin, ecbEncOut_eq, List.flatMap_def, hnb,
      pieces_flatten_of_length (by omega) (List.forall_mem_map.mpr fun c _ => encryptChunk_length s c)]
  have hchunk : ∀ c ∈ pieces (s.nb.toNat - 2) (readBytes s s.lsrc.toNat s.llen.toNat),
      unframeBlock v (encryptChunk s c) = (c, false) := fun c hc => by
    obtain ⟨j, hj, hcj⟩ := mem_pieces.mp hc
    rw [readBytes_length] at hj
    rw [unframeBlock_congr hsame, hkey.unframeBlock_encryptChunk hn (by omega) hhi (length_le_of_mem_pieces hc)
      (hcj ▸ hframes j hj)]
  constructor
  · rw [ecbDecOut_eq hv, hblocks, List.flatMap_map, List.flatMap_def,
      List.map_congr_left fun c hc => congrArg Prod.fst (hchunk c hc), List.map_id', pieces_flatten (by omega)]
  · rw [ecbDecBad_eq hv, hblocks, List.any_map, List.any_eq_false]
    exact fun c hc => by simp [hchunk c hc]

/-- Settles O53: ECB_DEC reads the string that ECB_ENC stored, under the same keys. -/
theorem ecbRoundTripThroughCommands : Obligations.EcbRoundTripThroughCommands := by
  intro p q s t u dst hkey hn hhi hframes henc ht hdec hu
  obtain ⟨hs, rfl⟩ := exec_of_errcode_zero henc ht
  have hmidlen := (output_of_pass hs).outlen_toNat
  obtain ⟨hmid, -⟩ := output_of_pass hs
  obtain ⟨hv, rfl⟩ := exec_of_errcode_zero hdec hu
  obtain ⟨hend, hendlen, -⟩ := output_of_pass hv
  rw [← hmidlen] at hmid
  obtain ⟨hout, hbad⟩ := hkey.ecbDec_of_ecbEncOut hn hhi hframes hs hv (effectOf_keys (i := .ecbEnc) (by decide) s) hmid
  rw [outputOf, hout, readBytes_length] at hend hendlen
  exact ⟨hend, BitVec.eq_of_toNat_eq hendlen, hbad⟩

/-! ### Splitting -/

/-- The state before a command over l bytes. -/
def withLength (s : State) (l : Word) : State := { s with llen := l }

/-- The state before the second command of a split: it continues behind the input and the output of the first. -/
def secondPart (i : Instr) (s : State) (la lb : Word) : State :=
  { completeOk (effectOf i (withLength s la)) with
    lsrc := s.lsrc + la, ldst := s.ldst + (completeOk (effectOf i (withLength s la))).outlen, llen := lb }

/-- The two commands of a split over la and lb bytes and the one command over both pass their checks (R213). -/
structure SplitPasses (i : Instr) (s : State) (la lb : Word) : Prop where
  ecb : i = .ecbEnc ∨ i = .ecbDec
  first : check i (withLength s la) = none
  second : check i (secondPart i s la lb) = none
  whole : check i (withLength s (la + lb)) = none

/-- What the three commands of a statement on splitting did, if none ended with an error. -/
theorem splitPasses_of_exec {i : Instr} {s t u v : State} {la lb : Word} (hi : i = .ecbEnc ∨ i = .ecbDec)
    (ht : exec i { s with llen := la } = .next t) (ht0 : t.errcode = 0)
    (hu : exec i { t with lsrc := s.lsrc + la, ldst := s.ldst + t.outlen, llen := lb } = .next u) (hu0 : u.errcode = 0)
    (hv : exec i { s with llen := la + lb } = .next v) (hv0 : v.errcode = 0) :
    SplitPasses i s la lb ∧ t = completeOk (effectOf i (withLength s la)) ∧
      u = completeOk (effectOf i (secondPart i s la lb)) ∧ v = completeOk (effectOf i (withLength s (la + lb))) := by
  obtain ⟨hfirst, rfl⟩ := exec_of_errcode_zero ht ht0
  obtain ⟨hsecond, rfl⟩ := exec_of_errcode_zero hu hu0
  obtain ⟨hwhole, rfl⟩ := exec_of_errcode_zero hv hv0
  exact ⟨⟨hi, hfirst, hsecond, hwhole⟩, rfl, rfl, rfl⟩

theorem inLen_of_isEcb {i : Instr} (hi : i = .ecbEnc ∨ i = .ecbDec) (s : State) : inLen i s = s.llen.toNat := by
  rcases hi with rfl | rfl <;> rfl

/-- OUTMAX does not fall when the input gets longer. -/
theorem outMax_withLength_mono {i : Instr} (hi : i = .ecbEnc ∨ i = .ecbDec) (s : State) {la l : Word}
    (h : la.toNat ≤ l.toNat) : outMax i (withLength s la) ≤ outMax i (withLength s l) := by
  rcases hi with rfl | rfl
  · exact Nat.mul_le_mul_right _ (Nat.div_le_div_right (Nat.sub_le_sub_right (Nat.add_le_add_right h _) _))
  · exact Nat.mul_le_mul_right _ (Nat.div_le_div_right h)

/-- ECB_DEC's output is no longer than its input. -/
theorem outMax_ecbDec_le (s : State) : outMax .ecbDec s ≤ s.llen.toNat :=
  (Nat.mul_le_mul_left _ (Nat.sub_le ..)).trans (Nat.div_mul_le_self ..)

namespace SplitPasses

variable {i : Instr} {s : State} {la lb : Word} (h : SplitPasses i s la lb)
include h

theorem keys : SameKeys s (secondPart i s la lb) := by
  rcases h.ecb with rfl | rfl <;> exact ⟨rfl, rfl, rfl, rfl, rfl⟩

/-- The sum of the two lengths does not wrap: both inputs lie in DMEM. -/
theorem length_toNat : (la + lb).toNat = la.toNat + lb.toNat := by
  have ha : InDmem s.lsrc.toNat la.toNat := inLen_of_isEcb h.ecb (withLength s la) ▸ (check_none h.first).1
  have hb : InDmem (s.lsrc + la).toNat lb.toNat :=
    inLen_of_isEcb h.ecb (secondPart i s la lb) ▸ (check_none h.second).1
  rw [BitVec.toNat_add, Nat.mod_eq_of_lt (by omega)]

theorem lsrc_toNat : (secondPart i s la lb).lsrc.toNat = s.lsrc.toNat + la.toNat :=
  toNat_add_of_inDmem (inLen_of_isEcb h.ecb (withLength s la) ▸ (check_none h.first).1)

theorem ldst_toNat : (secondPart i s la lb).ldst.toNat = s.ldst.toNat + (outputOf i (withLength s la)).length := by
  have hlen := (output_of_pass h.first).outlen_toNat
  obtain ⟨-, hrange, -⟩ := check_none h.first
  have hle := outputOf_length_le (withLength s la) i
  rw [← hlen] at hle ⊢
  refine toNat_add_of_inDmem (hrange.imp (fun h0 => ?_) fun hend => ?_)
  · omega
  · exact (Nat.add_le_add_left hle _).trans hend

/-- The input of the one command is the first command's input and then the second's: the first one's output leaves the
second one's input alone. -/
theorem input :
    readBytes s s.lsrc.toNat (la + lb).toNat =
      readBytes s s.lsrc.toNat la.toNat ++
        readBytes (secondPart i s la lb) (secondPart i s la lb).lsrc.toNat lb.toNat := by
  have hlen := h.length_toNat
  have hout := outputOf_length_le (withLength s la) i
  obtain ⟨-, -, hframe⟩ := output_of_pass h.first
  have hrest : readBytes (secondPart i s la lb) (s.lsrc.toNat + la.toNat) lb.toNat =
      readBytes s (s.lsrc.toNat + la.toNat) lb.toNat :=
    readBytes_rest_of_input (s := withLength s (la + lb)) (t := secondPart i s la lb) h.whole
      ((inLen_of_isEcb h.ecb _).trans hlen) (hout.trans (outMax_withLength_mono h.ecb s (by omega)))
      (fun hne => hout.trans (h.ecb.resolve_left hne ▸ outMax_ecbDec_le _)) hframe
  rw [hlen, readBytes_add, h.lsrc_toNat, hrest]

/-- Where the first part is whole pieces, the pieces of the one input are those of the two parts. -/
theorem pieces_input {k : Nat} (hk : 0 < k) (hla : la.toNat % k = 0) :
    pieces k (readBytes s s.lsrc.toNat (la + lb).toNat) =
      pieces k (readBytes s s.lsrc.toNat la.toNat) ++
        pieces k (readBytes (secondPart i s la lb) (secondPart i s la lb).lsrc.toNat lb.toNat) := by
  rw [h.input, pieces_append hk (by rwa [readBytes_length])]

/-- If the outputs fit together, so do DMEM and OUTLEN. -/
theorem same_dmem
    (hout : outputOf i (withLength s (la + lb)) = outputOf i (withLength s la) ++ outputOf i (secondPart i s la lb)) :
    (∀ x, dmemByte (completeOk (effectOf i (secondPart i s la lb))) x =
      dmemByte (completeOk (effectOf i (withLength s (la + lb)))) x) ∧
    (completeOk (effectOf i (withLength s (la + lb)))).outlen.toNat =
      (completeOk (effectOf i (withLength s la))).outlen.toNat +
        (completeOk (effectOf i (secondPart i s la lb))).outlen.toNat := by
  have houtA := output_of_pass h.first
  have houtB := output_of_pass h.second
  have houtV := output_of_pass h.whole
  refine ⟨dmemByte_eq_of_adjacent_outputs (s := withLength s la) (w := secondPart i s la lb) houtA (fun _ => rfl)
    h.ldst_toNat houtB (hout ▸ houtV), ?_⟩
  rw [houtA.outlen_toNat, houtB.outlen_toNat, houtV.outlen_toNat, hout, List.length_append]

end SplitPasses

/-- Settles O56: the chunks of the one input are the chunks of the two parts, and each is encrypted alone. -/
theorem ecbEncSplitEqualsOneCommand : Obligations.EcbEncSplitEqualsOneCommand := by
  intro s t u v la lb hla ht ht0 hu hu0 hv hv0
  obtain ⟨h, rfl, rfl, rfl⟩ := splitPasses_of_exec (.inl rfl) ht ht0 hu hu0 hv hv0
  have hnb : 3 ≤ s.nb.toNat := three_le_nb_of_pass (s := withLength s la) (.inl rfl) h.first
  have hchunks := h.pieces_input (k := s.nb.toNat - 2) (by omega) hla
  refine h.same_dmem ?_
  calc ecbEncOut (withLength s (la + lb))
      = (pieces (s.nb.toNat - 2) (readBytes s s.lsrc.toNat (la + lb).toNat)).flatMap (encryptChunk s) :=
        ecbEncOut_eq (withLength s (la + lb))
    _ = ecbEncOut (withLength s la) ++ ecbEncOut (secondPart .ecbEnc s la lb) := by
        rw [hchunks, List.flatMap_append, ecbEncOut_eq, ecbEncOut_eq, encryptChunk_congr h.keys]
        rfl

/-- Settles O57: the blocks of the one input are the blocks of the two parts, and each is decrypted and unframed alone. -/
theorem ecbDecSplitEqualsOneCommand : Obligations.EcbDecSplitEqualsOneCommand := by
  intro s t u v la lb ht ht0 hu hu0 hv hv0
  obtain ⟨h, rfl, rfl, rfl⟩ := splitPasses_of_exec (.inr rfl) ht ht0 hu hu0 hv hv0
  have hnb : 3 ≤ s.nb.toNat := three_le_nb_of_pass (s := withLength s la) (.inr rfl) h.first
  have hblocks := h.pieces_input (k := s.nb.toNat) (by omega) (llen_mod_nb_of_pass h.first)
  have hout : ecbDecOut (withLength s (la + lb)) =
      ecbDecOut (withLength s la) ++ ecbDecOut (secondPart .ecbDec s la lb) := by
    calc ecbDecOut (withLength s (la + lb))
        = (pieces s.nb.toNat (readBytes s s.lsrc.toNat (la + lb).toNat)).flatMap fun b => (unframeBlock s b).1 :=
          ecbDecOut_eq h.whole
      _ = _ := by
          rw [hblocks, List.flatMap_append, ecbDecOut_eq h.first, ecbDecOut_eq h.second, unframeBlock_congr h.keys]
          rfl
  have hbad : ecbDecBad (withLength s (la + lb)) =
      (ecbDecBad (withLength s la) || ecbDecBad (secondPart .ecbDec s la lb)) := by
    calc ecbDecBad (withLength s (la + lb))
        = (pieces s.nb.toNat (readBytes s s.lsrc.toNat (la + lb).toNat)).any fun b => (unframeBlock s b).2 :=
          ecbDecBad_eq h.whole
      _ = _ := by
          rw [hblocks, List.any_append, ecbDecBad_eq h.first, ecbDecBad_eq h.second, unframeBlock_congr h.keys]
          rfl
  obtain ⟨hdmem, hlen⟩ := h.same_dmem hout
  exact ⟨hdmem, hlen, (Bool.eq_iff_iff.mp hbad).trans (Bool.or_eq_true ..).to_iff⟩

end Sys2Proof.Machine
end

section
/-! Facts the proofs of the family 43_ctr.md share: the bytes of the keystream (43_ctr.md R231), the output of CTR as the XOR
of its input with them (R232), and what the passed checks of CTR leave. -/

namespace Sys2Proof.Machine

/-! ### Byte strings -/

/-- Byte p of blocks put together, where the blocks before its own have the full length k. -/
theorem concatBlocks_getElem? {n k p : Nat} {f : Nat → List Byte} (hn : p / k < n)
    (hfull : ∀ j < p / k, (f j).length = k) (hown : p % k < (f (p / k)).length) :
    (concatBlocks n f)[p]? = (f (p / k))[p % k]? := by
  obtain ⟨r, rfl⟩ : ∃ r, n = p / k + (1 + r) := ⟨n - p / k - 1, by omega⟩
  have hlen : (concatBlocks (p / k) f).length = p / k * k := concatBlocks_length _ _ _ hfull
  have hp : p / k * k + p % k = p := Nat.div_add_mod' p k
  rw [concatBlocks_add, List.getElem?_append_right (by omega), hlen, show p - p / k * k = p % k by omega,
    concatBlocks_add, concatBlocks_succ, concatBlocks_zero, List.nil_append, add_zero, List.getElem?_append_left hown]

theorem i2be_zero (k : Nat) : i2be 0 k = zeros k :=
  (eq_i2be_of_be_eq _ _ _ (zeros_length k) (be_zeros k)).symm

theorem i2be_one {k : Nat} (hk : 0 < k) : i2be 1 k = zeros (k - 1) ++ [0x01] := by
  refine (eq_i2be_of_be_eq _ _ _ ?_ ?_).symm
  · rw [List.length_append, zeros_length, List.length_singleton, Nat.sub_add_cancel hk]
  · rw [be_append, be_zeros, Nat.zero_mul]
    rfl

/-- The XOR of two strings put together from parts of equal lengths. -/
theorem xorBytes_append {a b k l : List Byte} (h : a.length = k.length) :
    xorBytes (a ++ b) (k ++ l) = xorBytes a k ++ xorBytes b l :=
  List.zipWith_append h

/-! ### The keystream -/

/-- The first n bytes of the keystream from counter value base on: byte p is byte p mod NB of block base + p / NB (R232). -/
def keystreamBytes (s : State) (base n : Nat) : List Byte :=
  (List.range n).map fun p => (keystream s (base + p / s.nb.toNat)).getD (p % s.nb.toNat) 0

@[simp] theorem keystreamBytes_length (s : State) (base n : Nat) : (keystreamBytes s base n).length = n := by
  simp [keystreamBytes]

/-- After whole blocks the keystream goes on with the next counter value. -/
theorem keystreamBytes_add {s : State} (hnb : 0 < s.nb.toNat) (base m n : Nat) :
    keystreamBytes s base (m * s.nb.toNat + n) =
      keystreamBytes s base (m * s.nb.toNat) ++ keystreamBytes s (base + m) n := by
  rw [keystreamBytes, List.range_add, List.map_append, List.map_map]
  congr 1
  refine List.map_congr_left fun p _ => ?_
  rw [Function.comp_apply, Nat.mul_add_mod', mul_comm, Nat.mul_add_div hnb, add_assoc]

/-- The keystream depends on the keys and the nonce only (R231). -/
theorem keystream_congr {s t : State} (hkeys : SameKeys s t) (hnonce : t.nonce = s.nonce) :
    keystream t = keystream s := by
  obtain ⟨hn, he, -, hnb, -⟩ := hkeys
  funext i
  rw [keystream_eq, keystream_eq, hn, he, hnb, hnonce]

theorem keystreamBytes_congr {s t : State} (hkeys : SameKeys s t) (hnonce : t.nonce = s.nonce) :
    keystreamBytes t = keystreamBytes s := by
  funext base n
  rw [keystreamBytes, keystreamBytes, keystream_congr hkeys hnonce, hkeys.nb_eq]

/-! ### The output -/

/-- The n bytes at address a XORed with the keystream from counter value base on (R232). -/
def maskedBytes (s : State) (base a n : Nat) : List Byte := xorBytes (readBytes s a n) (keystreamBytes s base n)

@[simp] theorem maskedBytes_length (s : State) (base a n : Nat) : (maskedBytes s base a n).length = n := by
  simp [maskedBytes]

theorem maskedBytes_getElem (s : State) (base a n p : Nat) (h : p < (maskedBytes s base a n).length) :
    (maskedBytes s base a n)[p] =
      dmemByte s (a + p) ^^^ (keystream s (base + p / s.nb.toNat)).getD (p % s.nb.toNat) 0 := by
  simp [maskedBytes, xorBytes, readBytes, keystreamBytes]

/-- Whole blocks and the rest are masked each from its own counter value. -/
theorem maskedBytes_add {s : State} (hnb : 0 < s.nb.toNat) (base a m n : Nat) :
    maskedBytes s base a (m * s.nb.toNat + n) =
      maskedBytes s base a (m * s.nb.toNat) ++ maskedBytes s (base + m) (a + m * s.nb.toNat) n := by
  rw [maskedBytes, readBytes_add, keystreamBytes_add hnb, xorBytes_append (by simp)]
  rfl

/-- Byte q of output block j, where the input reaches it. -/
theorem ctrBlock_getElem? {s : State} {base j q : Nat} (hq : q < s.nb.toNat) (hin : j * s.nb.toNat + q < s.llen.toNat) :
    (ctrBlock base s j)[q]? =
      some (dmemByte s (s.lsrc.toNat + (j * s.nb.toNat + q)) ^^^ (keystream s (base + j)).getD q 0) := by
  have hslice : (slice (readBytes s s.lsrc.toNat s.llen.toNat) (j * s.nb.toNat) ((j + 1) * s.nb.toNat))[q]? =
      some (dmemByte s (s.lsrc.toNat + (j * s.nb.toNat + q))) := by
    rw [slice, Nat.succ_mul, Nat.add_sub_cancel_left, List.getElem?_take_of_lt hq, List.getElem?_drop,
      List.getElem?_eq_getElem (by rwa [readBytes_length]), readBytes_getElem]
  have hkey : (keystream s (base + j))[q]? = some ((keystream s (base + j)).getD q 0) := by
    rw [List.getElem?_eq_getElem (by rwa [keystream_length]), List.getD_eq_getElem]
  rw [ctrBlock, xorBytes, blockLen, List.getElem?_zipWith, hslice, hkey]

/-- CTR's output, put together block by block, is its input XORed with the keystream from base on (R232). -/
theorem ctrOut_eq {s : State} (hnb : 0 < s.nb.toNat) (base : Nat) :
    ctrOut base s = maskedBytes s base s.lsrc.toNat s.llen.toNat := by
  have hlen := ctrOut_length s base hnb
  refine List.ext_getElem? fun p => ?_
  by_cases hp : p < s.llen.toNat
  · have hdm : p / s.nb.toNat * s.nb.toNat + p % s.nb.toNat = p := Nat.div_add_mod' p _
    have hq : p % s.nb.toNat < s.nb.toNat := Nat.mod_lt _ hnb
    have hblock := ctrBlock_getElem? (s := s) (base := base) hq (by rwa [hdm])
    have hblocks : p / s.nb.toNat < ctrBlocks s := by
      rw [Nat.div_lt_iff_lt_mul hnb]
      exact hp.trans_le (ceilDiv_mul_ge _ _ hnb)
    have hfull : ∀ j < p / s.nb.toNat, (ctrBlock base s j).length = s.nb.toNat := fun j hj => by
      have hle := Nat.mul_le_mul_right s.nb.toNat (Nat.succ_le_of_lt hj)
      rw [Nat.succ_mul] at hle
      rw [ctrBlock_length, slice_length, readBytes_length, blockLen, Nat.succ_mul]
      omega
    obtain ⟨hown, -⟩ := List.getElem?_eq_some_iff.mp hblock
    rw [ctrOut, concatBlocks_getElem? hblocks hfull hown, hblock, hdm,
      List.getElem?_eq_getElem (by simpa using hp), maskedBytes_getElem]
  · rw [List.getElem?_eq_none (by omega), List.getElem?_eq_none (by simp; omega)]

/-! ### What a CTR command does -/

section
variable {i : Instr} {s : State} (hi : i = .ctr ∨ i = .ctrCont)
include hi

theorem outputOf_ctr : outputOf i s = ctrOut (ctrBase i s) s := by
  rcases hi with rfl | rfl <;> rfl

theorem effectOf_ctrCount :
    (effectOf i s).ctrCount = BitVec.ofNat 32 (ctrBase i s + ceilDiv s.llen.toNat s.nb.toNat) := by
  rcases hi with rfl | rfl <;> rfl

theorem effectOf_ctrOpen : (effectOf i s).ctrOpen = (s.llen.toNat % s.nb.toNat == 0) := by
  rcases hi with rfl | rfl <;> rfl

/-- A CTR command leaves what its keystream and its length come from, and PADFMT. -/
theorem effectOf_ctr_frame :
    (effectOf i s).llen = s.llen ∧ SameKeys s (effectOf i s) ∧ (effectOf i s).nonce = s.nonce ∧
    (effectOf i s).padfmt = s.padfmt := by
  rcases hi with rfl | rfl <;> exact ⟨rfl, ⟨rfl, rfl, rfl, rfl, rfl⟩, rfl, rfl⟩

/-- CTR stores its input XORed with the keystream and changes no other byte (R232). -/
theorem ctr_output_of_pass (hnb : 0 < s.nb.toNat) (hc : check i s = none) :
    OutputIs (maskedBytes s (ctrBase i s) s.lsrc.toNat s.llen.toNat) s (completeOk (effectOf i s)) := by
  rw [← ctrOut_eq hnb, ← outputOf_ctr hi]
  exact output_of_pass hc

/-- The new counter value: CTR_EXHAUSTED excludes that it wraps (R232, R238). -/
theorem ctrCount_of_pass (hc : check i s = none) :
    (completeOk (effectOf i s)).ctrCount.toNat = ctrBase i s + ceilDiv s.llen.toNat s.nb.toNat := by
  have hle : ctrBase i s + ceilDiv s.llen.toNat s.nb.toNat ≤ 4294967295 := by
    rw [check_eq] at hc
    simp only [check_step] at hc
    obtain ⟨-, -, -, -, -, -, hexhausted, -⟩ := hc
    exact Nat.le_of_not_lt fun hlt => hexhausted ⟨hi, hlt⟩
  rw [completeOk_ctrCount, effectOf_ctrCount hi, BitVec.toNat_ofNat, Nat.mod_eq_of_lt (by omega)]

end

end Sys2Proof.Machine
end

section
/-! Proofs of the family 43_ctr.md: SET_NONCE (R230), the keystream (R231, R240), CTR and CTR.CONT (R232 to R234), CTR as its
own inverse (R239) and its splitting (R242). -/

namespace Sys2Proof.Machine

/-! ### SET_NONCE -/

/-- The only check on the length of SET_NONCE (R230). -/
theorem setNonce_len_of_pass {s : State} (h : check .setNonce s = none) : s.llen.toNat ≤ 512 := by
  rw [check_setNonce, loadChecks, check_step] at h
  omega

/-- Settles O27: the checks bound LLEN by MAX_BYTES, so NONCE holds the whole field; SET_KEYS keeps it by the frame of all
commands. -/
theorem setNonceLoadsNonce : Obligations.SetNonceLoadsNonce := by
  refine ⟨endsBy_of_check check_setNonce fun s hc => ?_, rfl, fun s t h => ?_⟩
  · have hlen : (readBytes s s.lsrc.toNat s.llen.toNat).length ≤ 512 := by
      rw [readBytes_length]
      exact setNonce_len_of_pass hc
    exact ⟨ofNat_be_toNat hlen, rfl, rfl, rfl, effectOf_keys (i := .setNonce) (by decide) s, rfl,
      effectOf_dmem (.inr (.inr rfl)) s⟩
  · obtain ⟨-, -, hnonce, -⟩ := commandFrame .setKeys s t h
    exact hnonce (by decide)

/-! ### The keystream -/

/-- Settles O50: a power modulo N depends on its base modulo N only, and the powers of 0 and 1 are 0 and 1. -/
theorem keystreamDependsOnCounterModN : Obligations.KeystreamDependsOnCounterModN := by
  intro s i hn hlt
  have hnb : 0 < s.nb.toNat := Nat.pos_of_ne_zero fun h0 => by
    rw [h0, pow_zero] at hlt
    omega
  have hmod (j : Nat) : keystream s j =
      i2be (((s.nonce.toNat + j) % s.keyN.toNat) ^ s.keyE.toNat % s.keyN.toNat) s.nb.toNat := by
    rw [keystream_eq, ← Nat.pow_mod]
  refine ⟨?_, fun h0 he => ?_, fun h1 => ?_⟩
  · rw [hmod, hmod, ← add_assoc, Nat.add_mod_right]
  · rw [hmod, h0, zero_pow he.ne', Nat.zero_mod, i2be_zero]
  · rw [hmod, h1, one_pow, Nat.mod_eq_of_lt (by omega), i2be_one hnb]

/-! ### CTR and CTR.CONT -/

/-- What CTR does to DMEM and to the stream, for both values of CONT (R232). -/
theorem ctr_of_pass {i : Instr} {s : State} (hi : i = .ctr ∨ i = .ctrCont) (hc : check i s = none)
    (hnb : 0 < s.nb.toNat) :
    let t := completeOk (effectOf i s)
    (∀ p < s.llen.toNat,
      dmemByte t (s.ldst.toNat + p) =
        dmemByte s (s.lsrc.toNat + p) ^^^
          (i2be ((s.nonce.toNat + (ctrBase i s + p / s.nb.toNat)) ^ s.keyE.toNat % s.keyN.toNat) s.nb.toNat).getD
            (p % s.nb.toNat) 0) ∧
    SameDmemOutside s.ldst.toNat s.llen.toNat s t ∧ t.outlen = s.llen ∧
    t.ctrCount.toNat = ctrBase i s + ceilDiv s.llen.toNat s.nb.toNat ∧
    (t.ctrOpen = true ↔ s.llen.toNat % s.nb.toNat = 0) ∧
    t.nonce = s.nonce ∧ SameKeys s t ∧ t.padfmt = s.padfmt := by
  obtain ⟨-, hkeys, hnonce, hpad⟩ := effectOf_ctr_frame hi (s := s)
  have hout := ctr_output_of_pass hi hnb hc
  refine ⟨fun p hp => ?_, ?_⟩
  · rw [hout.dmemByte_eq, dif_pos (by rw [maskedBytes_length]; omega), maskedBytes_getElem, keystream_eq,
      Nat.add_sub_cancel_left]
  · have hopen : (completeOk (effectOf i s)).ctrOpen = true ↔ s.llen.toNat % s.nb.toNat = 0 := by
      rw [completeOk_ctrOpen, effectOf_ctrOpen hi, beq_iff_eq]
    obtain ⟨-, hlen, hframe⟩ := hout
    rw [maskedBytes_length] at hlen hframe
    exact ⟨hframe, BitVec.eq_of_toNat_eq hlen, ctrCount_of_pass hi hc, hopen, hnonce, hkeys, hpad⟩

/-- Settles O34: both commands do the same from their own base. -/
theorem ctrXorsKeystreamAndCounts : Obligations.CtrXorsKeystreamAndCounts :=
  ⟨endsBy_of_check check_ctr fun _ hc => ctr_of_pass (.inl rfl) hc,
    endsBy_of_check check_ctrCont fun _ hc => ctr_of_pass (.inr rfl) hc⟩

/-! ### CTR twice -/

/-- The state before the second of two CTR commands at the same block positions: it reads the first one's output (R239). -/
def readBack (i : Instr) (s : State) (dst : Word) : State :=
  { completeOk (effectOf i s) with lsrc := s.ldst, ldst := dst, ctrCount := s.ctrCount, ctrOpen := s.ctrOpen }

/-- Settles O54: the second command reads the first one's output and XORs it with the same keystream. -/
theorem ctrTwiceRestoresInput : Obligations.CtrTwiceRestoresInput := by
  intro i s t u dst hi hnb hs ht hv hu
  obtain ⟨hcs, rfl⟩ := exec_of_errcode_zero hs ht
  obtain ⟨hcv, rfl⟩ := exec_of_errcode_zero hv hu
  obtain ⟨hllen, hkeys, hnonce, -⟩ := effectOf_ctr_frame hi (s := s)
  obtain ⟨hmid, -⟩ := ctr_output_of_pass hi hnb hcs
  obtain ⟨hend, -⟩ := ctr_output_of_pass (s := readBack i s dst) hi (hkeys.nb_eq ▸ hnb) hcv
  have hlen : (readBack i s dst).llen = s.llen := hllen
  have hbase : ctrBase i (readBack i s dst) = ctrBase i s := rfl
  rw [maskedBytes_length] at hmid hend
  have hin : readBytes (readBack i s dst) (readBack i s dst).lsrc.toNat s.llen.toNat =
      maskedBytes s (ctrBase i s) s.lsrc.toNat s.llen.toNat := hmid
  rw [hlen, hbase, maskedBytes, hin, keystreamBytes_congr (t := readBack i s dst) hkeys hnonce,
    maskedBytes, xorBytes_self _ _ (by simp)] at hend
  exact hend

/-! ### Splitting -/

/-- The state before CTR.CONT over the second part of an input, after CTR over the first part (R242). -/
def ctrSecondPart (s : State) (la lb : Word) : State :=
  { completeOk (effectOf .ctr (withLength s la)) with lsrc := s.lsrc + la, ldst := s.ldst + la, llen := lb }

/-- What CTR over l bytes stores. -/
theorem ctr_withLength_output {s : State} {l : Word} (hnb : 0 < s.nb.toNat) (hc : check .ctr (withLength s l) = none) :
    OutputIs (maskedBytes s 0 s.lsrc.toNat l.toNat) s (completeOk (effectOf .ctr (withLength s l))) := by
  have hout := ctr_output_of_pass (s := withLength s l) (.inl rfl) hnb hc
  rw [maskedBytes, keystreamBytes_congr (s := s) (t := withLength s l) ⟨rfl, rfl, rfl, rfl, rfl⟩ rfl] at hout
  exact hout

/-- The three commands of a split, CTR over la bytes, CTR.CONT over lb bytes and CTR over both, pass their checks, and the
first part is whole blocks (R242). -/
structure CtrSplitPasses (s : State) (la lb : Word) : Prop where
  nb_pos : 0 < s.nb.toNat
  whole_blocks : la.toNat % s.nb.toNat = 0
  first : check .ctr (withLength s la) = none
  second : check .ctrCont (ctrSecondPart s la lb) = none
  whole : check .ctr (withLength s (la + lb)) = none

namespace CtrSplitPasses

variable {s : State} {la lb : Word} (h : CtrSplitPasses s la lb)
include h

theorem lsrc_toNat : (s.lsrc + la).toNat = s.lsrc.toNat + la.toNat := by
  obtain ⟨hin, -⟩ := check_none h.first
  exact toNat_add_of_inDmem hin

theorem ldst_toNat : (s.ldst + la).toNat = s.ldst.toNat + la.toNat := by
  obtain ⟨-, hout, -⟩ := check_none h.first
  exact toNat_add_of_inDmem hout

/-- The sum of the two lengths does not wrap: both inputs lie in DMEM. -/
theorem length_toNat : (la + lb).toNat = la.toNat + lb.toNat := by
  obtain ⟨ha, -⟩ := check_none h.first
  obtain ⟨hb, -⟩ := check_none h.second
  have ha' : InDmem s.lsrc.toNat la.toNat := ha
  have hb' : InDmem (s.lsrc + la).toNat lb.toNat := hb
  rw [BitVec.toNat_add, Nat.mod_eq_of_lt (by omega)]

/-- The first part is la / NB whole blocks. -/
theorem length_eq_mul : la.toNat = la.toNat / s.nb.toNat * s.nb.toNat :=
  (Nat.div_mul_cancel (Nat.dvd_of_mod_eq_zero h.whole_blocks)).symm

/-- CTR.CONT goes on from the number of blocks of the first part. -/
theorem ctrBase_second : ctrBase .ctrCont (ctrSecondPart s la lb) = la.toNat / s.nb.toNat := by
  have hblocks : ceilDiv la.toNat s.nb.toNat = la.toNat / s.nb.toNat := by
    conv_lhs => rw [h.length_eq_mul]
    exact ceilDiv_mul _ _ h.nb_pos
  have hcount := ctrCount_of_pass (.inl rfl) h.first
  exact (hcount.trans (Nat.zero_add _)).trans hblocks

/-- What CTR.CONT over the second part stores: the first output left the second input alone. -/
theorem second_output :
    OutputIs (maskedBytes s (la.toNat / s.nb.toNat) (s.lsrc.toNat + la.toNat) lb.toNat)
      (ctrSecondPart s la lb) (completeOk (effectOf .ctrCont (ctrSecondPart s la lb))) := by
  have hout := ctr_output_of_pass (s := ctrSecondPart s la lb) (.inr rfl) h.nb_pos h.second
  have hlsrc : (ctrSecondPart s la lb).lsrc.toNat = s.lsrc.toNat + la.toNat := h.lsrc_toNat
  have hllen : (ctrSecondPart s la lb).llen = lb := rfl
  have hframe : SameDmemOutside s.ldst.toNat la.toNat s (ctrSecondPart s la lb) := by
    obtain ⟨-, -, hframe⟩ := ctr_withLength_output h.nb_pos h.first
    rwa [maskedBytes_length] at hframe
  have hin : readBytes (ctrSecondPart s la lb) (s.lsrc.toNat + la.toNat) lb.toNat =
      readBytes s (s.lsrc.toNat + la.toNat) lb.toNat :=
    readBytes_rest_of_input (s := withLength s (la + lb)) h.whole h.length_toNat
      ((Nat.le_add_right _ _).trans_eq h.length_toNat.symm) (fun _ => le_rfl) hframe
  rwa [h.ctrBase_second, maskedBytes, hlsrc, hllen, hin,
    keystreamBytes_congr (s := s) (t := ctrSecondPart s la lb) ⟨rfl, rfl, rfl, rfl, rfl⟩ rfl] at hout

/-- What the one CTR over both parts stores: the outputs of the two commands, one behind the other. -/
theorem whole_output :
    OutputIs
      (maskedBytes s 0 s.lsrc.toNat la.toNat ++
        maskedBytes s (la.toNat / s.nb.toNat) (s.lsrc.toNat + la.toNat) lb.toNat)
      s (completeOk (effectOf .ctr (withLength s (la + lb)))) := by
  have hout := ctr_withLength_output h.nb_pos h.whole
  have hparts := maskedBytes_add h.nb_pos 0 s.lsrc.toNat (la.toNat / s.nb.toNat) lb.toNat
  rw [← h.length_eq_mul, zero_add] at hparts
  rwa [h.length_toNat, hparts] at hout

theorem same_dmem (x : Nat) :
    dmemByte (completeOk (effectOf .ctrCont (ctrSecondPart s la lb))) x =
      dmemByte (completeOk (effectOf .ctr (withLength s (la + lb)))) x :=
  dmemByte_eq_of_adjacent_outputs (w := ctrSecondPart s la lb) (ctr_withLength_output h.nb_pos h.first) (fun _ => rfl)
    (h.ldst_toNat.trans (by simp)) h.second_output h.whole_output x

/-- The blocks of the two parts are the blocks of the whole. -/
theorem same_ctrCount :
    (completeOk (effectOf .ctrCont (ctrSecondPart s la lb))).ctrCount =
      (completeOk (effectOf .ctr (withLength s (la + lb)))).ctrCount := by
  refine BitVec.eq_of_toNat_eq ?_
  calc (completeOk (effectOf .ctrCont (ctrSecondPart s la lb))).ctrCount.toNat
      = la.toNat / s.nb.toNat + ceilDiv lb.toNat s.nb.toNat :=
        h.ctrBase_second ▸ ctrCount_of_pass (.inr rfl) h.second
    _ = ceilDiv (la.toNat / s.nb.toNat * s.nb.toNat + lb.toNat) s.nb.toNat := (ceilDiv_add _ _ _ h.nb_pos).symm
    _ = 0 + ceilDiv (la + lb).toNat s.nb.toNat := by rw [← h.length_eq_mul, h.length_toNat, zero_add]
    _ = (completeOk (effectOf .ctr (withLength s (la + lb)))).ctrCount.toNat :=
        (ctrCount_of_pass (.inl rfl) h.whole).symm

/-- The second part and the whole leave the same rest over NB. -/
theorem same_ctrOpen :
    (completeOk (effectOf .ctrCont (ctrSecondPart s la lb))).ctrOpen =
      (completeOk (effectOf .ctr (withLength s (la + lb)))).ctrOpen := by
  have hmod : (la + lb).toNat % s.nb.toNat = lb.toNat % s.nb.toNat := by
    rw [h.length_toNat, Nat.add_mod, h.whole_blocks, zero_add, Nat.mod_mod]
  calc (completeOk (effectOf .ctrCont (ctrSecondPart s la lb))).ctrOpen
      = (lb.toNat % s.nb.toNat == 0) := effectOf_ctrOpen (.inr rfl)
    _ = ((la + lb).toNat % s.nb.toNat == 0) := by rw [hmod]

end CtrSplitPasses

/-- Settles O55: CTR.CONT goes on at the block where the first command ended, behind its output. -/
theorem ctrSplitEqualsOneCommand : Obligations.CtrSplitEqualsOneCommand := by
  intro s t u v la lb hnb hla ht ht0 hu hu0 hv hv0
  obtain ⟨hfirst, rfl⟩ := exec_of_errcode_zero ht ht0
  obtain ⟨hsecond, rfl⟩ := exec_of_errcode_zero hu hu0
  obtain ⟨hwhole, rfl⟩ := exec_of_errcode_zero hv hv0
  have h : CtrSplitPasses s la lb := ⟨hnb, hla, hfirst, hsecond, hwhole⟩
  exact ⟨h.same_dmem, h.same_ctrCount, h.same_ctrOpen⟩

end Sys2Proof.Machine
end

section
/-! Proofs of the family 60_exceptions.md about the order of the error codes (R262, R263), what a failed command leaves
(R264), and the start and the end of a command (R267, R268). -/

namespace Sys2Proof.Machine

/-! ### The order of the error codes -/

/-- In a list with strictly rising keys `find?` gives the element of the lowest key among those that meet the test. -/
theorem find?_eq_some_iff_of_rising {α : Type} {key : α → Nat} {p : α → Bool} {l : List α} {a : α}
    (hl : l.Pairwise (fun b c => key b < key c)) :
    l.find? p = some a ↔ a ∈ l ∧ p a = true ∧ ∀ b ∈ l, key b < key a → p b = false := by
  rw [List.find?_eq_some_iff_append]
  constructor
  · rintro ⟨hp, before, after, rfl, hbefore⟩
    obtain ⟨-, hrest, -⟩ := List.pairwise_append.mp hl
    refine ⟨by simp, hp, fun b hb hlt => ?_⟩
    rcases List.mem_append.mp hb with hb | hb
    · simpa using hbefore b hb
    · rcases List.mem_cons.mp hb with rfl | hb
      · exact absurd hlt (lt_irrefl _)
      · exact absurd (List.rel_of_pairwise_cons hrest hb) hlt.asymm
  · rintro ⟨ha, hp, hfirst⟩
    obtain ⟨before, after, rfl⟩ := List.append_of_mem ha
    obtain ⟨-, -, hlt⟩ := List.pairwise_append.mp hl
    refine ⟨hp, before, after, rfl, fun b hb => ?_⟩
    rw [hfirst b (List.mem_append_left _ hb) (hlt b hb a List.mem_cons_self)]
    rfl

/-- The nonzero codes in their order of priority (R261, R262). -/
def errorCodes : List ErrorCode :=
  [.illegalCmd, .keyNotConfigured, .modUnsupported, .blockSize, .lenInvalid, .ctrAlign, .ctrExhausted, .dmemRange, .overlap]

theorem mem_errorCodes (c : ErrorCode) : c ∈ errorCodes := by cases c <;> decide

/-- The order of priority is the order of the codes' values (R262). -/
theorem errorCodes_rising : errorCodes.Pairwise (fun c d => (errorValue c).toNat < (errorValue d).toNat) := by decide

theorem find?_decide_cons {α : Type} (P : α → Prop) [DecidablePred P] (a : α) (l : List α) :
    (a :: l).find? (fun b => decide (P b)) = if P a then some a else l.find? (fun b => decide (P b)) := by
  by_cases h : P a <;> simp [h]

/-- The cause of CTR_EXHAUSTED with the base of either CTR command (R232, R263). -/
theorem ctrExhausted_iff (i : Instr) (s : State) :
    ErrorCause i s .ctrExhausted ↔ (i = .ctr ∨ i = .ctrCont) ∧ 4294967295 < ctrBase i s + ctrBlocks s := by
  rw [or_and_right, ErrorCause]
  refine or_congr (and_congr_right ?_) (and_congr_right ?_)
  · rintro rfl
    rw [ctrBase, if_neg (by decide), Nat.zero_add]
    rfl
  · rintro rfl
    rfl

/-- The check of a legal command finds the first code whose cause holds (R262, R263): ILLEGAL_CMD has none, the two tests
for LEN_INVALID stand side by side in the list, and the others are the causes as they are. -/
theorem check_eq_find? (i : Instr) (s : State) [DecidablePred (ErrorCause i s)] :
    check i s = errorCodes.find? (fun c => decide (ErrorCause i s c)) := by
  rw [check_eq, ← ite_or]
  simp only [errorCodes, find?_decide_cons, List.find?_nil]
  rw [if_neg (show ¬ErrorCause i s .illegalCmd from id)]
  congr! 8
  exact (ctrExhausted_iff i s).symm

theorem check_eq_some_iff {i : Instr} {s : State} {c : ErrorCode} :
    check i s = some c ↔
      ErrorCause i s c ∧ ∀ d, (errorValue d).toNat < (errorValue c).toNat → ¬ErrorCause i s d := by
  classical
  rw [check_eq_find?, find?_eq_some_iff_of_rising errorCodes_rising]
  simp [mem_errorCodes]

theorem check_eq_none_iff {i : Instr} {s : State} : check i s = none ↔ ∀ c, ¬ErrorCause i s c := by
  classical
  rw [check_eq_find?, List.find?_eq_none]
  simp [mem_errorCodes]

/-- The code a command ends with is the one its check names, 0 where it names none (R265, R266). -/
theorem errcode_of_exec {i : Instr} {s t : State} (h : exec i s = .next t) :
    (∀ c, t.errcode = errorValue c ↔ check i s = some c) ∧ (t.errcode = 0 ↔ check i s = none) := by
  rcases exec_cases h with ⟨e, he, rfl⟩ | ⟨hn, rfl⟩
  · rw [completeError_errcode, he]
    refine ⟨fun c => ?_, iff_of_false (errorValue_ne_zero e) (by simp)⟩
    rw [Option.some_inj]
    exact ⟨errorValue_injective, congrArg errorValue⟩
  · rw [completeOk_errcode, hn]
    exact ⟨fun c => iff_of_false (errorValue_ne_zero c).symm (by simp), by simp⟩

/-- Settles O38: the code is the one the check names, and the check names the first cause that holds. -/
theorem firstErrorInPriorityOrder : Obligations.FirstErrorInPriorityOrder := by
  refine ⟨fun i s => ?_, fun s why hb hd => ⟨_, engineStep_of_illegal hb hd, rfl⟩⟩
  obtain ⟨t, ht⟩ := exec_answers i s
  obtain ⟨hcode, hzero⟩ := errcode_of_exec ht
  exact ⟨t, ht, fun c => (hcode c).trans check_eq_some_iff, hzero.trans check_eq_none_iff⟩

/-! ### A failed command -/

theorem failedWith_of_exec {i : Instr} {s t : State} (h : exec i s = .next t) (hne : t.errcode ≠ 0) :
    ∃ c, FailedWith c s t := by
  rcases exec_cases h with ⟨c, -, rfl⟩ | ⟨-, rfl⟩
  · exact ⟨c, failedWith_completeError c s⟩
  · exact absurd rfl hne

/-- The engine ends a pending word with a nonzero code only by an error completion (R264). -/
theorem EngineEffect.failedWith {s t : State} (h : EngineEffect s t) (hne : t.errcode ≠ 0) : ∃ c, FailedWith c s t := by
  cases h with
  | illegal => exact ⟨_, failedWith_completeError _ s⟩
  | error i c => exact ⟨c, failedWith_completeError c s⟩
  | done => exact absurd rfl hne

/-- Settles O36: a nonzero code comes from an error completion only, which changes nothing beyond R265's list. -/
theorem failedCommandMutatesNothing : Obligations.FailedCommandMutatesNothing := by
  refine ⟨fun i s t => failedWith_of_exec, fun s t hb h hne => ?_⟩
  rcases engineStep_cases h with ⟨hidle, -⟩ | ⟨-, he⟩
  · simp [hb] at hidle
  · exact he.failedWith hne

/-! ### The start and the end of a command -/

/-- Settles O4: with no turn left and on its own turn the engine runs the pending word. -/
theorem stepRunsDecodedCommand : Obligations.StepRunsDecodedCommand := by
  refine fun s i hb hd => ⟨fun ht => ?_, fun rest ht => ?_⟩
  · rw [step, nextTurn, ht]
    exact engineStep_of_command hb hd
  · rw [step, nextTurn, ht]
    exact engineStep_of_command (s := { s with turns := rest }) hb hd

/-- Settles O17: the write is a command start, and the engine completes whatever word it latched. -/
theorem cmdWriteStartsAndEngineCompletes : Obligations.CmdWriteStartsAndEngineCompletes := by
  intro s w hb u
  have hu : u = answer (.write false) (startCommand w s) := busAccess_cmd_idle hb w
  obtain ⟨t, ht⟩ := engineStep_answers u
  refine ⟨hu, t, ht, ?_⟩
  rcases engineStep_cases ht with ⟨hidle, -⟩ | ⟨-, he⟩
  · simp [hu] at hidle
  · obtain ⟨hdone, hbusy, -⟩ := he.completion
    exact ⟨hbusy, hdone⟩

/-- Settles O18: the busy case of a CMD write. -/
theorem cmdWriteWhileBusyIsOverrun : Obligations.CmdWriteWhileBusyIsOverrun :=
  fun _ w hb => busAccess_cmd_busy hb w

end Sys2Proof.Machine
end

section
/-! Proof of the family 60_exceptions.md about the irq output (R272): what can make it fall. -/

namespace Sys2Proof.Machine

/-- irq is the OR over the four events of the event and its enable bit (R272). -/
theorem irq_iff (s : State) :
    irq s = true ↔ ∃ i, i < 4 ∧ s.intStatus.getLsbD i = true ∧ s.intEnable.getLsbD i = true := by
  rw [irq, bne_iff_ne]
  constructor
  · intro hne
    by_contra hno
    refine hne (BitVec.eq_of_getLsbD_eq fun i hi => ?_)
    have hbit : ¬(s.intStatus.getLsbD i = true ∧ s.intEnable.getLsbD i = true) := fun h => hno ⟨i, hi, h⟩
    simpa using hbit
  · rintro ⟨i, -, hs, he⟩ h0
    have hbit := congrArg (BitVec.getLsbD · i) h0
    simp [hs, he] at hbit

/-- Events that are only raised, with the same enable bits, keep irq up. -/
theorem irq_of_raised {s t : State} {ev : BitVec 4} (hev : t.intStatus = s.intStatus ||| ev)
    (hen : t.intEnable = s.intEnable) (h : irq s = true) : irq t = true := by
  obtain ⟨i, hi, hs, he⟩ := (irq_iff s).mp h
  exact (irq_iff t).mpr ⟨i, hi, by rw [hev]; exact getLsbD_or_left ev hs, by rw [hen]; exact he⟩

/-- A host write of INT_STATUS or INT_ENABLE (R54, R55). -/
def writesIrqRegs (x : Transfer) : Prop := x.write = true ∧ (x.addr = 0x030 ∨ x.addr = 0x034)

/-- A transfer that neither resets nor writes INT_STATUS or INT_ENABLE keeps irq up. -/
theorem busAccess_keeps_irq {x : Transfer} {s : State} (hx : isSoftReset x = false) (hw : ¬writesIrqRegs x)
    (h : irq s = true) : irq (busAccess x s) = true := by
  obtain ⟨r, u, hu, he⟩ := busAccess_cases x s
  suffices irq u = true by rw [hu]; exact this
  cases he
  case accessEvent => exact irq_of_raised rfl rfl h
  case overrun => exact irq_of_raised rfl rfl h
  case reset hr => simp [hx] at hr
  case clear hwr ha _ => exact absurd ⟨hwr, .inl (BitVec.eq_of_toNat_eq ha)⟩ hw
  case enable hwr ha => exact absurd ⟨hwr, .inr (BitVec.eq_of_toNat_eq ha)⟩ hw
  all_goals exact h

theorem HostPart.keeps_irq {s u : State} (h : HostPart s u) (hr : resetNext s = false)
    (hw : ∀ x, nextTransfer s = some x → ¬writesIrqRegs x) (hs : irq s = true) : irq u = true := by
  cases h with
  | idle => exact hs
  | access x hx => exact busAccess_keeps_irq (s := popTurn s) ((resetNext_eq_false hr).2 x hx) (hw x hx) hs

theorem EngineEffect.intEnable {s t : State} (h : EngineEffect s t) : t.intEnable = s.intEnable := by
  cases h with
  | illegal => rfl
  | error => rfl
  | done i =>
    obtain ⟨⟨-, -, -, -, -, -, -, hen, -⟩, -⟩ := effectOf_frame i s
    exact hen

/-- The engine only raises events, so it cannot lower irq. -/
theorem EngineEffect.keeps_irq {s t : State} (h : EngineEffect s t) (hs : irq s = true) : irq t = true := by
  obtain ⟨-, -, ev, -, hev⟩ := h.completion
  exact irq_of_raised hev h.intEnable hs

/-- Settles O21: neither part of a step without a reset and without such a write lowers irq. -/
theorem irqFollowsEnabledEvents : Obligations.IrqFollowsEnabledEvents := by
  refine ⟨irq_iff, rfl, fun s t hst hs ht => ?_⟩
  refine (Bool.eq_false_or_eq_true (resetNext s)).imp_right fun hr => ?_
  by_contra hno
  have hw : ∀ x, nextTransfer s = some x → ¬writesIrqRegs x := fun x hx hwx => hno ⟨x, hx, hwx⟩
  obtain ⟨u, hu, hpart⟩ := step_parts_of_no_reset hst hr
  have hirq : irq u = true := hu.keeps_irq hr hw hs
  rcases hpart with rfl | ⟨-, -, he⟩
  · simp [hirq] at ht
  · simp [he.keeps_irq hirq] at ht

end Sys2Proof.Machine
end

section
/-! Facts the proofs of the family 70_reset_and_hazards.md share: the reset values (R301), DMEM after a soft reset (R303,
R304), the engine with nothing to do (R306), and the events of a waiting host's transfer (R308, R309). -/

namespace Sys2Proof.Machine

/-! ### The resets -/

theorem atResetValues_reset : AtResetValues State.reset := by
  simp [AtResetValues, State.reset, irq]

theorem atResetValues_softReset (s : State) : AtResetValues (softReset s) := atResetValues_reset

theorem atResetValues_hardReset (s : State) : AtResetValues (hardReset s) := atResetValues_reset

theorem pendingOutput_of_idle {s : State} (h : s.busy = false) : pendingOutput s = none := by
  rw [pendingOutput, h, if_neg Bool.false_ne_true]

theorem pendingOutput_of_illegal {s : State} {why : IllegalWord} (h : decode s.lcmd = .illegal why) :
    pendingOutput s = none := by
  rw [pendingOutput, h, ite_self]

theorem pendingOutput_of_command {s : State} {i : Instr} (hb : s.busy = true) (hd : decode s.lcmd = .command i) :
    pendingOutput s = if check i s = none then some (s.ldst.toNat, outMax i s) else none := by
  rw [pendingOutput, if_pos hb, hd]

/-- DMEM after a soft reset is DMEM as the abandoned command leaves it (R303, R304). -/
theorem softReset_dmem (s : State) : SameDmem (abandonPending s) (softReset s) := by
  have hdraws : (softReset s).hwResets = (abandonPending s).hwResets := by
    unfold abandonPending
    split <;> rfl
  exact sameDmem_of_mem_eq rfl hdraws rfl

theorem softReset_dmem_of_no_output {s : State} (h : pendingOutput s = none) : SameDmem s (softReset s) := by
  have habandon : abandonPending s = s := by rw [abandonPending, h]
  simpa only [habandon] using softReset_dmem s

theorem softReset_dmem_of_output {s : State} {r : Nat × Nat} (h : pendingOutput s = some r) :
    SameDmem (abandonRange r s) (softReset s) := by
  have habandon : abandonPending s = abandonRange r s := by rw [abandonPending, h]
  simpa only [habandon] using softReset_dmem s

theorem inRange_eq_true {a k x : Nat} : inRange a k x = true ↔ a ≤ x ∧ x < a + k := by
  simp [inRange]

/-- The bytes of an abandoned range are unwritten. -/
theorem memGet_abandonRange_inside {a k x : Nat} (h : a ≤ x ∧ x < a + k) (s : State) :
    memGet (abandonRange (a, k) s).mem x = none := by
  rw [abandonRange_mem, memGet_memErase, if_pos (inRange_eq_true.mpr h)]

/-- A byte outside an abandoned range is as before, and unwritten it is the same draw. -/
theorem dmemByte_abandonRange_outside (a k : Nat) (s : State) : SameDmemOutside a k s (abandonRange (a, k) s) := by
  intro x hx
  have hout : ¬inRange a k x = true := fun h => hx (inRange_eq_true.mp h)
  have hmem : memGet (abandonRange (a, k) s).mem x = memGet s.mem x := by
    rw [abandonRange_mem, memGet_memErase, if_neg hout]
  have hdraw : abortsOver (abandonRange (a, k) s) x = abortsOver s x := List.countP_cons_of_neg hout
  rw [dmemByte, hmem, hdraw, abandonRange_hwResets, dmemByte]

/-! ### The idle engine and the waiting host -/

theorem engineStep_of_idle {s : State} (h : s.busy = false) : engineStep s = .next s := by
  rw [engineStep, h, if_neg Bool.false_ne_true]

/-- A transfer raises an event only by touching the window or writing CMD while a command is pending (R308, R309). -/
theorem HostEffect.event_of_waiting {x : Transfer} {s u : State} {i : Nat} (h : HostEffect x s u)
    (hw : WaitsForCompletion x s) (hi : u.intStatus.getLsbD i = true) : s.intStatus.getLsbD i = true := by
  cases h
  case accessEvent hb hwin =>
    obtain ⟨hlow, -⟩ := hw hb
    omega
  case overrun hb hwr ha =>
    obtain ⟨-, hcmd⟩ := hw hb
    exact absurd ⟨hwr, BitVec.eq_of_toNat_eq ha⟩ hcmd
  case reset => simp at hi
  case clear =>
    rw [clearEvents_getLsbD _ _ (BitVec.lt_of_getLsbD hi), Bool.and_eq_true] at hi
    exact hi.1
  all_goals exact hi

theorem busAccess_event_of_waiting {x : Transfer} {s : State} {i : Nat} (hw : WaitsForCompletion x s)
    (hi : (busAccess x s).intStatus.getLsbD i = true) : s.intStatus.getLsbD i = true := by
  obtain ⟨r, u, hu, he⟩ := busAccess_cases x s
  rw [hu, answer_intStatus] at hi
  exact he.event_of_waiting hw hi

end Sys2Proof.Machine
end

section
/-! Proofs of the family 70_reset_and_hazards.md: the turns (R300, R306, R320), the resets (R301 to R304), the waiting host
(R308, R309) and the choice of a clear nonce (R312). -/

namespace Sys2Proof.Machine

/-- A CTRL write answers OKAY and is the soft reset where bit 0 is set (R38, R303). -/
theorem busAccess_ctrl (w : Word) (s : State) :
    busAccess ⟨true, 0x00008, w, 0b1111⟩ s =
      if w.getLsbD 0 then answer (.write false) (softReset s) else answer (.write false) s := by
  rw [← apply_ite (answer (.write false))]
  exact busAccess_writeReg .ctrl w s

/-- Settles O8, by whether the pending word leaves an output range to abandon. -/
theorem softResetPreservesDmemButAbortedOutput : Obligations.SoftResetPreservesDmemButAbortedOutput := by
  intro s w t
  refine ⟨fun hw => ?_, fun hw => ?_⟩
  · exact (busAccess_ctrl w s).trans (if_neg (ne_true_of_eq_false hw))
  · have ht : t = answer (.write false) (softReset s) := (busAccess_ctrl w s).trans (if_pos hw)
    have hkept (h : pendingOutput s = none) : SameDmem s t := ht ▸ softReset_dmem_of_no_output h
    refine ⟨ht ▸ atResetValues_softReset s, ht ▸ rfl, ht ▸ rfl, fun hb => hkept (pendingOutput_of_idle hb),
      fun _ _ hd => hkept (pendingOutput_of_illegal hd), fun i hb hd => ⟨fun c hc => hkept ?_, fun hc => ?_⟩⟩
    · rw [pendingOutput_of_command hb hd, hc]
      rfl
    · have hout : pendingOutput s = some (s.ldst.toNat, outMax i s) := by
        rw [pendingOutput_of_command hb hd, if_pos hc]
      have hdmem := softReset_dmem_of_output hout
      rw [ht]
      exact ⟨fun a hlo hhi => (hdmem a).1.trans (memGet_abandonRange_inside ⟨hlo, hhi⟩ s),
        fun a ha => (hdmem a).2.trans (dmemByte_abandonRange_outside _ _ s a ha)⟩

/-- Settles O7: both resets give the registers of the reset state, and the hardware reset its DMEM. -/
theorem resetsLeaveResetValues : Obligations.ResetsLeaveResetValues :=
  ⟨atResetValues_reset, fun _ => rfl, fun s => ⟨atResetValues_softReset s, atResetValues_hardReset s, fun _ => rfl⟩⟩

/-- A step with a turn listed takes that turn (R320). -/
theorem step_of_turn {s : State} {t : Turn} {rest : List Turn} (h : s.turns = t :: rest) :
    step s = takeTurn t { s with turns := rest } := by
  rw [step, nextTurn, h]

theorem step_of_no_turns {s : State} (h : s.turns = []) : step s = engineStep s := by
  rw [step, nextTurn, h]

/-- Settles O6, turn by turn; with a command pending a shared cycle ends with the engine's step. -/
theorem stepTakesTheNextTurn : Obligations.StepTakesTheNextTurn := by
  intro s rest p
  refine ⟨fun ht hb => ?_, fun ht hb => ?_, step_of_turn,
    fun x => ⟨step_of_turn, fun ht hb => ?_, fun ht hb => step_hostAndEngine_busy hb ht⟩⟩
  · rw [step_of_no_turns ht, engineStep_of_idle hb]
  · exact (step_of_turn ht).trans (engineStep_of_idle (s := p) hb)
  · exact (step_of_turn ht).trans (if_neg (ne_true_of_eq_false hb))

/-- Settles O23: a waiting host's transfer raises no event at all. -/
theorem waitingHostRaisesNoEvents : Obligations.WaitingHostRaisesNoEvents :=
  fun _ _ hw => ⟨busAccess_event_of_waiting hw, busAccess_event_of_waiting hw⟩

/-! ### The clear nonce -/

/-- A valid RSA key has a nonzero public exponent: its product with D is 1 modulo some number (R176). -/
theorem RsaKey.keyE_pos {p q : Nat} {s : State} (h : RsaKey p q s) : 0 < s.keyE.toNat := by
  obtain ⟨-, -, -, -, -, -, hed⟩ := h
  refine Nat.pos_of_ne_zero fun h0 => ?_
  rw [h0, Nat.zero_mul, Nat.zero_mod] at hed
  cases hed

/-- With a valid RSA key equal keystream blocks have counter values equal modulo N: the power D undoes the power E
(R176, R231). -/
theorem RsaKey.counter_mod_eq_of_keystream_eq {p q : Nat} {s : State} (h : RsaKey p q s)
    (hlt : s.keyN.toNat < 256 ^ s.nb.toNat) (hpos : 0 < s.keyN.toNat) {i j : Nat} (hk : keystream s i = keystream s j) :
    (s.nonce.toNat + i) % s.keyN.toNat = (s.nonce.toNat + j) % s.keyN.toNat := by
  have be_block (l : Nat) : be (keystream s l) = (s.nonce.toNat + l) ^ s.keyE.toNat % s.keyN.toNat := by
    rw [keystream_eq, be_i2be _ _ ((Nat.mod_lt _ hpos).trans hlt)]
  rw [← h.pow_pow_mod, ← be_block, hk, be_block, h.pow_pow_mod]

/-- Settles O51: the counter values of the stream lie in 2..N-1, the zero block and 00 .. 01 are those of the counter values
N and N + 1, and equal blocks have equal counter values modulo N. -/
theorem clearNonceAvoidsUnmaskedBlocks : Obligations.ClearNonceAvoidsUnmaskedBlocks := by
  intro p q s blocks i j hkey hlt ⟨hlo, hhi⟩ hi hj
  have hcounter {l m : Nat} := hkey.counter_mod_eq_of_keystream_eq hlt (by omega) (i := l) (j := m)
  have hown {l : Nat} (hl : l < blocks) : (s.nonce.toNat + l) % s.keyN.toNat = s.nonce.toNat + l :=
    Nat.mod_eq_of_lt (by omega)
  have h0 : (s.nonce.toNat + (s.keyN.toNat - s.nonce.toNat)) % s.keyN.toNat = 0 := by
    rw [Nat.add_sub_cancel' (by omega), Nat.mod_self]
  have h1 : (s.nonce.toNat + (s.keyN.toNat - s.nonce.toNat + 1)) % s.keyN.toNat = 1 := by
    rw [← add_assoc, Nat.add_sub_cancel' (by omega), Nat.add_mod_left, Nat.mod_eq_of_lt (by omega)]
  obtain ⟨-, hzero, -⟩ := keystreamDependsOnCounterModN s (s.keyN.toNat - s.nonce.toNat) (by omega) hlt
  obtain ⟨-, -, hone⟩ := keystreamDependsOnCounterModN s (s.keyN.toNat - s.nonce.toNat + 1) (by omega) hlt
  refine ⟨fun hk => ?_, fun hk => ?_, fun hk => ?_⟩
  · have hc := hcounter (hk.trans (hzero h0 hkey.keyE_pos).symm)
    rw [hown hi, h0] at hc
    omega
  · have hc := hcounter (hk.trans (hone h1).symm)
    rw [hown hi, h1] at hc
    omega
  · have hc := hcounter hk
    rw [hown hi, hown hj] at hc
    omega

end Sys2Proof.Machine
end
